-- ==== Sys2Proof/Word.lean ====
section
/-!
DEFINITION. The word types of the OTP CORE block (00_scope.md R8, R13): bytes, 32-bit words and the 64-bit counter.
-/

namespace Sys2Proof

/-- A byte: an element of [0, 256) (R8). -/
abbrev Byte := BitVec 8

/-- A 32-bit word, the width of every register and of the SHA-1 arithmetic (R6, R8). -/
abbrev Word := BitVec 32

/-- A 64-bit value: the counter of `CTR.ENC` (R36, R140) and the SHA-1 length field (R153). -/
abbrev DWord := BitVec 64

end Sys2Proof
end

