-- ==== Sys2Proof/Syntax.lean ====
section
/-!
DEFINITION. The eight commands of the OTPC command set, version 1 (30_encoding.md R82), one constructor per row of
spec/opcode_table.json. The only immediate operand is the digit count of `TRUNC` (R81).
-/

namespace Sys2Proof

/-- A command (R82). Every operand but `TRUNC`'s digit count comes from the argument registers (R81). -/
inductive Instr where
  /-- `NOP`, OP = 0x00 (R110). -/
  | nop
  /-- `SHA1.INIT`, OP = 0x01 (R160). -/
  | sha1Init
  /-- `SHA1.BLOCK`, OP = 0x02 (R161). -/
  | sha1Block
  /-- `SHA1.DIGEST`, OP = 0x03 (R162). -/
  | sha1Digest
  /-- `HMAC.SHA1`, OP = 0x04 (R183). -/
  | hmacSha1
  /-- `CTR.ENC`, OP = 0x05 (R142). -/
  | ctrEnc
  /-- `B32.DEC`, OP = 0x06 (R126). -/
  | b32Dec
  /-- `TRUNC d`, OP = 0x07, with d the 4-bit field DIG = cmd[11:8] (R81, R190). -/
  | trunc (d : BitVec 4)
deriving DecidableEq, Repr

end Sys2Proof
end

