-- ==== Sys2Proof/WellFormed.lean ====
section
/-!
DEFINITION. Which commands are legal (30_encoding.md R86): every command, but `TRUNC d` only for 1 ≤ d ≤ 9. An illegal
`TRUNC` still decodes and runs, and fails with DIGITS_RANGE (R84), so neither decoding nor the machine depends on this check.
-/

namespace Sys2Proof

/-- The digit counts `TRUNC` accepts: 1 ≤ d ≤ 9 (R190). -/
def digitsLegal (d : BitVec 4) : Bool := decide (1 ≤ d.toNat) && decide (d.toNat ≤ 9)

/-- The command's word is one of the 16 legal words of R86. -/
def Instr.wellFormed : Instr → Bool
  | .nop => true
  | .sha1Init => true
  | .sha1Block => true
  | .sha1Digest => true
  | .hmacSha1 => true
  | .ctrEnc => true
  | .b32Dec => true
  | .trunc d => digitsLegal d

end Sys2Proof
end

