-- ==== Sys2Proof/Decode.lean ====
section
/-!
DEFINITION. The command word CMD32 (30_encoding.md R80): decoding (R83), encoding (R82) and the word's bytes on the
little-endian bus (20_memory.md R64).
-/

namespace Sys2Proof

/-- Why a word decodes as ILLEGAL (R83, R84). -/
inductive DecodeError where
  /-- RSV = cmd[31:12] is not 0. -/
  | reservedBits
  /-- OP = cmd[7:0] is above 0x07. -/
  | reservedOpcode
  /-- DIG = cmd[11:8] is not 0 and OP is not 0x07. -/
  | digitsNotZero
deriving DecidableEq, Repr

/-- OP = cmd[7:0] (R80). -/
def opField (w : Word) : BitVec 8 := w.extractLsb' 0 8

/-- DIG = cmd[11:8] (R80, R81). -/
def digField (w : Word) : BitVec 4 := w.extractLsb' 8 4

/-- RSV = cmd[31:12] (R80). -/
def rsvField (w : Word) : BitVec 20 := w.extractLsb' 12 20

/-- A word from its three fields, RSV in the high part (R80). -/
def cmdWord (rsv : BitVec 20) (dig : BitVec 4) (op : BitVec 8) : Word := rsv ++ dig ++ op

/-- The command of an opcode in the table of R82; `none` for the reserved opcodes 0x08 to 0xFF (R84). -/
def instrOfOp (op : BitVec 8) (dig : BitVec 4) : Option Instr :=
  match op.toNat with
  | 0x00 => some .nop
  | 0x01 => some .sha1Init
  | 0x02 => some .sha1Block
  | 0x03 => some .sha1Digest
  | 0x04 => some .hmacSha1
  | 0x05 => some .ctrEnc
  | 0x06 => some .b32Dec
  | 0x07 => some (.trunc dig)
  | _ => none

/-- Decoding of a command word (R83), total: every word is one command or ILLEGAL. -/
def decode (w : Word) : Except DecodeError Instr :=
  if rsvField w ≠ 0 then .error .reservedBits
  else
    match instrOfOp (opField w) (digField w) with
    | none => .error .reservedOpcode
    | some i => if opField w ≠ 0x07 ∧ digField w ≠ 0 then .error .digitsNotZero else .ok i

/-- The opcode of a command (R82). -/
def Instr.opcode : Instr → BitVec 8
  | .nop => 0x00
  | .sha1Init => 0x01
  | .sha1Block => 0x02
  | .sha1Digest => 0x03
  | .hmacSha1 => 0x04
  | .ctrEnc => 0x05
  | .b32Dec => 0x06
  | .trunc _ => 0x07

/-- The DIG field of a command: d for `TRUNC`, 0 for every other (R80). -/
def Instr.digits : Instr → BitVec 4
  | .nop => 0
  | .sha1Init => 0
  | .sha1Block => 0
  | .sha1Digest => 0
  | .hmacSha1 => 0
  | .ctrEnc => 0
  | .b32Dec => 0
  | .trunc d => d

/-- The command word of a command (R80, R82). -/
def encode (i : Instr) : Word := cmdWord 0 i.digits i.opcode

/-- A word's four bytes as the little-endian bus lays them out, least significant byte first (R64). -/
def wordToBytes (w : Word) : List Byte :=
  [w.extractLsb' 0 8, w.extractLsb' 8 8, w.extractLsb' 16 8, w.extractLsb' 24 8]

/-- The word that four bytes on the bus carry, the first in bits 7:0 (R64). -/
def wordOfBytes (b0 b1 b2 b3 : Byte) : Word := b3 ++ b2 ++ b1 ++ b0

/-- Decoding of the bytes of a 4-byte write to CMD. Any other number of bytes is no command word (R80, R85). -/
def decodeBytes : List Byte → Option (Except DecodeError Instr)
  | [b0, b1, b2, b3] => some (decode (wordOfBytes b0 b1 b2 b3))
  | _ => none

/-- The command the decoder reads from an opcode-table word of `nbits` bits, the bits above them 0. A command word has
32 bits and no longer form exists (R85). -/
def decodeTableWord (nbits w : Nat) : Option Instr :=
  if nbits ≤ 32 then
    match decodeBytes (wordToBytes (BitVec.ofNat 32 (w % 2 ^ nbits))) with
    | some (.ok i) => some i
    | _ => none
  else none

end Sys2Proof
end

