-- ==== Sys2Proof/Config.lean ====
section
/-!
DEFINITION. What the implementation fixes (00_scope.md R6) and the free values the spec leaves open. The platform's open
parameters ENGINE_BASE, IRQ_ROUTE, ENGINE_ACCESS_POLICY and RESET_SEQUENCE (92_eei_decisions.md D45) stand in no rule of
the engine and have no constant here (assumption log 8).
-/

namespace Sys2Proof

/-- `BUF_BYTES`, the size of the local buffer: this hardware's 4096 (R6, R40). -/
def Config.bufBytes : Nat := 4096

/-- FREE VALUE (assumption log 1). How many host transactions pass between the n-th issue and its completion. R103 and
R242 leave it unspecified but finite. -/
opaque Config.completionLatency : Nat → Nat

/-- FREE VALUE (assumption logs 5, 6). What the read-data lines carry in the response to the n-th host transaction, when
the spec gives that response no read data: a write (R21), or any transaction while `rst` is asserted (R230). -/
opaque Config.undrivenRdata : Nat → Word

/-- FREE VALUE (assumption log 5). Whether the n-th host transaction, performed while `rst` is asserted, sees an ERROR
response: R230 gives it no defined response. -/
opaque Config.undrivenError : Nat → Bool

end Sys2Proof
end

