-- ==== Sys2Proof/Machine/State.lean ====
section
/-!
DEFINITION. The state of the OTP CORE block (10_state.md), the host and platform that drive it (R20 to R22), the reasons a
step can stop, and the state right after a hard reset (R43, R230). Plain data throughout.
-/

namespace Sys2Proof.Machine

/-- The contents of BUF (R40, R41): the bytes written since the last hard reset, as (BUF index, byte) pairs in rising
order of index. An index that is not listed is unwritten, and reading it is the fault `uninitRead`. -/
abbrev Memory := List Host.Cell

/-- No listed index is at or below `k`, and the indices rise strictly from there. -/
def Memory.risesAbove (k : Nat) : Memory → Bool
  | [] => true
  | (a, _) :: rest => decide (k < a) && Memory.risesAbove a rest

/-- The canonical form of BUF's contents: indices strictly rising. An unlisted index reads as no value at all, so no
entry can equal what an unlisted index reads as. -/
def Memory.wf : Memory → Bool
  | [] => true
  | (a, _) :: rest => Memory.risesAbove a rest

/-- Every listed index is a position of BUF (R40). -/
def Memory.inside (m : Memory) : Bool := m.all fun c => decide (c.1 < Config.bufBytes)

/-- CTRL's two stored bits (R28). CTRL[30:2] and CTRL.SRST read as zero and are not stored. -/
structure Ctrl where
  /-- Bit 0: enables `irq` on STATUS.DONE. -/
  ieDone : Bool
  /-- Bit 1: enables `irq` on STATUS.ERR. -/
  ieErr : Bool
deriving DecidableEq, Repr

/-- STATUS's four stored bits (R29). STATUS[31:4] reads as zero and is not stored. BUSY is also the pending flag (R42). -/
structure Status where
  /-- Bit 0: a command is pending. -/
  busy : Bool
  /-- Bit 1: the last command succeeded. -/
  done : Bool
  /-- Bit 2: the last command failed. -/
  err : Bool
  /-- Bit 3: a write was dropped while a command was pending. -/
  ovr : Bool
deriving DecidableEq, Repr

/-- The argument registers, every bit readable and writable (R35). -/
structure Args where
  src : Word
  len : Word
  dst : Word
  key : Word
  klen : Word
  ctrHi : Word
  ctrLo : Word
deriving DecidableEq, Repr

/-- Five SHA-1 words: the registers H0 to H4 (R39), and the chaining and working values of SHA-1 (R154). -/
structure Chain where
  h0 : Word
  h1 : Word
  h2 : Word
  h3 : Word
  h4 : Word
deriving DecidableEq, Repr

/-- The result registers of `TRUNC` (R38). T_OFF[31:4] reads 0 and is not stored. -/
structure Trunc where
  result : Word
  code : Word
  tOff : BitVec 4
deriving DecidableEq, Repr

/-- The two kinds of bus transaction (R21). -/
inductive AccessKind where
  | read
  | write
deriving DecidableEq, Repr

/-- A request on the bus slave port (R21). The size is any number, since a request of a size other than 1 and 4 is
answered too, with ERROR. -/
structure Request where
  kind : AccessKind
  addr : BitVec 13
  size : Nat
  wdata : Word
deriving DecidableEq, Repr

/-- The two response codes of the port (R21). -/
inductive Resp where
  | okay
  | error
deriving DecidableEq, Repr

/-- A response of the port (R21). -/
structure Response where
  resp : Resp
  rdata : Word
deriving DecidableEq, Repr

/-- The host fault a model records for a transaction with an ERROR response, or performed during reset (R63, R230). -/
structure BusError where
  addr : BitVec 13
  size : Nat
  kind : AccessKind
deriving DecidableEq, Repr

/-- What the host or the platform does next. -/
inductive HostAction where
  /-- The host performs one bus transaction (R21, R90). -/
  | bus (r : Request)
  /-- The host's loop `wait`: it reads STATUS again and again while bit 0 of the value read is 1 (R93). -/
  | wait
  /-- The platform asserts `rst` (R230). -/
  | rstAssert
  /-- The platform releases `rst` (R230). -/
  | rstRelease
deriving DecidableEq, Repr

/-- The agents outside the engine (R20 to R22) and what the model records of them. -/
structure HostSide where
  /-- What the host and the platform have still to do, first element first: the single order of R72. -/
  agenda : List HostAction
  /-- The index into the host's sequence of transactions: how many it has performed (R22). -/
  position : Nat
  /-- The response to the host's last transaction; `none` before its first (R21). -/
  response : Option Response
  /-- The recorded bus errors, newest first (R63). -/
  busErrors : List BusError
deriving DecidableEq, Repr

/-- The MODEL's own fields, which carry the open latency of commands (R103; assumption log 1). -/
structure Sched where
  /-- How many commands have been issued: the argument of the free value `Config.completionLatency`. -/
  issued : Nat
  /-- How many host transactions may still pass before the pending command completes. -/
  latency : Nat
deriving DecidableEq, Repr

/-- The whole machine. ID and VERSION are hard-wired and have no storage (R26, R27). The pending flag is STATUS.BUSY and
the latched command word is CMD (R42); the working values of a command are never observable and are not kept (R42). -/
structure State where
  /-- The level of the `rst` input: true while it is asserted (R21, R230). -/
  rst : Bool
  ctrl : Ctrl
  status : Status
  /-- CMD: the last accepted command word (R30). -/
  cmd : Word
  /-- ERR_CAUSE[7:0]; ERR_CAUSE[31:8] reads 0 (R31). -/
  errCause : BitVec 8
  /-- ERR_INFO (R32). -/
  errInfo : Word
  args : Args
  /-- OUT_LEN (R37). -/
  outLen : Word
  trunc : Trunc
  /-- H0 to H4 (R39). -/
  chain : Chain
  /-- BUF (R40, R41). -/
  buf : Memory
  host : HostSide
  sched : Sched
deriving DecidableEq, Repr

/-- The reasons for which a step stops. -/
inductive Fault where
  /-- A host read, or an input read of a command, of the BUF byte at this index, which has not been written since the last
  hard reset (R41, R107). Raised by `readTarget` and `withBytes`. Safe: a real engine returns some value and goes on. -/
  | uninitRead (index : Nat)
deriving DecidableEq, Repr

/-- The reasons for which the model gives an instruction no meaning. -/
inductive Refusal where
  /-- Only `exec` answers with it, for an instruction that has no meaning yet. Safe. No arm does so in this model. -/
  | notModelled (mnemonic : String)
deriving DecidableEq, Repr

/-- The outcome of a command or a step. -/
abbrev Result := Host.Outcome State Fault Refusal

/-- The state right after a hard reset, with `rst` released (R24, R43, R230): every register at its reset value, no
command pending, no BUF byte written. The host has performed no transaction and has nothing left to do: a program is
given from outside (assumption log 3). -/
def State.reset : State where
  rst := false
  ctrl := { ieDone := false, ieErr := false }
  status := { busy := false, done := false, err := false, ovr := false }
  cmd := 0x00000000
  errCause := 0x00
  errInfo := 0x00000000
  args := { src := 0, len := 0, dst := 0, key := 0, klen := 0, ctrHi := 0, ctrLo := 0 }
  outLen := 0x00000000
  trunc := { result := 0, code := 0, tOff := 0 }
  chain := { h0 := 0x67452301, h1 := 0xEFCDAB89, h2 := 0x98BADCFE, h3 := 0x10325476, h4 := 0xC3D2E1F0 }
  buf := []
  host := { agenda := [], position := 0, response := none, busErrors := [] }
  sched := { issued := 0, latency := 0 }

end Sys2Proof.Machine
end

