-- ==== Sys2Proof/Machine/Flags.lean ====
section
/-!
DEFINITION. STATUS, CTRL and `irq`: the word each register reads as, and every change the spec makes to their bits
(10_state.md R28, R29, R33; 40_command.md R101, R104; 60_exceptions.md R207).
-/

namespace Sys2Proof.Machine

/-- What STATUS reads as: BUSY, DONE, ERR, OVR in bits 0 to 3, zeros above (R29). -/
def statusWord (st : Status) : Word :=
  (0 : BitVec 28) ++ BitVec.ofBool st.ovr ++ BitVec.ofBool st.err ++ BitVec.ofBool st.done ++ BitVec.ofBool st.busy

/-- What CTRL reads as: IE_DONE and IE_ERR in bits 0 and 1, zeros above, SRST among them (R28). -/
def ctrlWord (c : Ctrl) : Word :=
  (0 : BitVec 30) ++ BitVec.ofBool c.ieErr ++ BitVec.ofBool c.ieDone

/-- CTRL after a write of `w` with `w[31]` = 0: the two enables are `w[0]` and `w[1]`, the rest is ignored (R28). -/
def ctrlOfWord (w : Word) : Ctrl := { ieDone := w.getLsbD 0, ieErr := w.getLsbD 1 }

/-- STATUS after a host write of `w`: each of DONE, ERR and OVR whose bit of `w` is 1 is cleared, and BUSY keeps its
value (R29). -/
def statusAfterW1C (st : Status) (w : Word) : Status :=
  { busy := st.busy
    done := st.done && !w.getLsbD 1
    err := st.err && !w.getLsbD 2
    ovr := st.ovr && !w.getLsbD 3 }

/-- STATUS after an issue: BUSY set, DONE and ERR cleared, OVR kept (R101). -/
def statusAfterIssue (st : Status) : Status := { st with busy := true, done := false, err := false }

/-- STATUS after a successful completion: BUSY cleared and DONE set (R104). -/
def statusAfterSuccess (st : Status) : Status := { st with busy := false, done := true }

/-- STATUS after a failed completion: BUSY cleared and ERR set (R104). -/
def statusAfterFailure (st : Status) : Status := { st with busy := false, err := true }

/-- STATUS after a write dropped while BUSY: OVR set (R33). -/
def statusAfterDrop (st : Status) : Status := { st with ovr := true }

/-- The interrupt output, a level: (DONE and IE_DONE) or (ERR and IE_ERR) (R207). -/
def State.irq (s : State) : Bool := (s.status.done && s.ctrl.ieDone) || (s.status.err && s.ctrl.ieErr)

end Sys2Proof.Machine
end

