-- ==== Sys2Proof/Machine/Ops.lean ====
section
/-!
DEFINITION. The named operations over BUF and the registers: reading and writing BUF (00_scope.md R9), the writes a
command makes, and the shared steps of a command's life: issue (40_command.md R101), successful and failed completion
(R104, R105), and the two resets (70_reset_and_hazards.md R230, R232).
-/

namespace Sys2Proof.Machine

/-! ### BUF -/

/-- `BUF[a]`; `none` where it has not been written since the last hard reset (R41). -/
def Memory.read : Memory → Nat → Option Byte
  | [], _ => none
  | (k, v) :: rest, a => if k = a then some v else Memory.read rest a

/-- Write one byte of BUF, which marks it as written (R41), keeping the indices in rising order. -/
def Memory.write : Memory → Nat → Byte → Memory
  | [], a, b => [(a, b)]
  | (k, v) :: rest, a, b =>
    if a < k then (a, b) :: (k, v) :: rest
    else if a = k then (a, b) :: rest
    else (k, v) :: Memory.write rest a b

/-- `MemWrite(a, n, s)`: the bytes of `s` into BUF[a..a+n) (R9). -/
def Memory.writeBytes (m : Memory) (a : Nat) : List Byte → Memory
  | [] => m
  | b :: bs => Memory.writeBytes (m.write a b) (a + 1) bs

/-- `MemRead(a, n)`: the bytes BUF[a..a+n) (R9), or the lowest index among them that is unwritten (R41). -/
def Memory.readBytes (m : Memory) : Nat → Nat → Except Nat (List Byte)
  | _, 0 => .ok []
  | a, n + 1 =>
    match m.read a with
    | none => .error a
    | some b =>
      match Memory.readBytes m (a + 1) n with
      | .error i => .error i
      | .ok bs => .ok (b :: bs)

/-! ### The writes of a command (R82) -/

/-- `MemWrite(DST, n, s)` (R108). -/
def storeBytes (base : Word) (bs : List Byte) (s : State) : State :=
  { s with buf := s.buf.writeBytes base.toNat bs }

/-- `reg(H0..H4) <- h` (R39). -/
def setChain (h : Chain) (s : State) : State := { s with chain := h }

/-- `reg(OUT_LEN) <- n` (R37). -/
def setOutLen (n : Nat) (s : State) : State := { s with outLen := BitVec.ofNat 32 n }

/-- `reg(T_OFF)`, `reg(RESULT)` and `reg(CODE)` written together (R38, R190). -/
def setTrunc (t : Trunc) (s : State) : State := { s with trunc := t }

/-! ### The life of a command -/

/-- What the spec's issue does to the engine (R101): CMD, BUSY, DONE, ERR, ERR_CAUSE and ERR_INFO. -/
def acceptCommand (w : Word) (s : State) : State :=
  { s with cmd := w, status := statusAfterIssue s.status, errCause := 0, errInfo := 0 }

/-- The issue of a command word (R101), with the free latency of its completion taken (R103; assumption log 1). -/
def issue (w : Word) (s : State) : State :=
  { acceptCommand w s with
    sched := { issued := s.sched.issued + 1, latency := Config.completionLatency s.sched.issued } }

/-- The end of a successful completion, after the command's writes (R104). -/
def succeed (s : State) : State := { s with status := statusAfterSuccess s.status }

/-- The causes a completion can fail with (R200). -/
inductive Cause where
  | illegalCmd
  | bounds
  | invalidChar
  | invalidLength
  | digitsRange
deriving DecidableEq, Repr

/-- The code of a cause, written to ERR_CAUSE[7:0] (R200). -/
def causeCode : Cause → BitVec 8
  | .illegalCmd => 0x01
  | .bounds => 0x02
  | .invalidChar => 0x03
  | .invalidLength => 0x04
  | .digitsRange => 0x05

/-- `raise Cause(info)`: a failed completion, the ONE operation by which the engine reports an error (R104, R105, R202).
It writes ERR_CAUSE, ERR_INFO and STATUS and nothing else; the engine takes no trap (R208). -/
def raiseCause (c : Cause) (info : Word) (s : State) : State :=
  { s with errCause := causeCode c, errInfo := info, status := statusAfterFailure s.status }

/-! ### Reset -/

/-- The soft reset (R232): every register at its reset value and a pending command aborted; BUF, the host and the `rst`
level unchanged. -/
def softReset (s : State) : State :=
  { State.reset with rst := s.rst, buf := s.buf, host := s.host, sched := s.sched }

/-- The engine in its hard-reset state (R230): every register at its reset value, a pending command aborted, every byte
of BUF unwritten; the host and the `rst` level unchanged. -/
def hardReset (s : State) : State :=
  { State.reset with rst := s.rst, host := s.host, sched := s.sched }

end Sys2Proof.Machine
end

