-- ==== Sys2Proof/Machine/Registers.lean ====
section
/-!
DEFINITION. The register map of the window (10_state.md R24): the offset of each register, what a read of it returns, and
what a host write to it does (R25 to R39; 40_command.md R101; 70_reset_and_hazards.md R232).
-/

namespace Sys2Proof.Machine

/-- The mapped registers, in the order of the table of R24. -/
inductive Reg where
  | ID | VERSION | CTRL | STATUS | CMD | ERR_CAUSE | ERR_INFO
  | SRC | LEN | DST | KEY | KLEN | CTR_HI | CTR_LO
  | OUT_LEN | RESULT | CODE | T_OFF
  | H0 | H1 | H2 | H3 | H4
deriving DecidableEq, Repr

/-- The window offset of a register (R24). -/
def regOffset : Reg → Nat
  | .ID => 0x000
  | .VERSION => 0x004
  | .CTRL => 0x008
  | .STATUS => 0x00C
  | .CMD => 0x010
  | .ERR_CAUSE => 0x014
  | .ERR_INFO => 0x018
  | .SRC => 0x020
  | .LEN => 0x024
  | .DST => 0x028
  | .KEY => 0x02C
  | .KLEN => 0x030
  | .CTR_HI => 0x034
  | .CTR_LO => 0x038
  | .OUT_LEN => 0x040
  | .RESULT => 0x044
  | .CODE => 0x048
  | .T_OFF => 0x04C
  | .H0 => 0x050
  | .H1 => 0x054
  | .H2 => 0x058
  | .H3 => 0x05C
  | .H4 => 0x060

/-- The register at a window offset; `none` where no register is mapped (R23, R24). -/
def regAt : Nat → Option Reg
  | 0x000 => some .ID
  | 0x004 => some .VERSION
  | 0x008 => some .CTRL
  | 0x00C => some .STATUS
  | 0x010 => some .CMD
  | 0x014 => some .ERR_CAUSE
  | 0x018 => some .ERR_INFO
  | 0x020 => some .SRC
  | 0x024 => some .LEN
  | 0x028 => some .DST
  | 0x02C => some .KEY
  | 0x030 => some .KLEN
  | 0x034 => some .CTR_HI
  | 0x038 => some .CTR_LO
  | 0x040 => some .OUT_LEN
  | 0x044 => some .RESULT
  | 0x048 => some .CODE
  | 0x04C => some .T_OFF
  | 0x050 => some .H0
  | 0x054 => some .H1
  | 0x058 => some .H2
  | 0x05C => some .H3
  | 0x060 => some .H4
  | _ => none

/-- The value of ID (R26). -/
def idValue : Word := 0x53484131

/-- The value of VERSION (R27). -/
def versionValue : Word := 0x00000001

/-- What a register reads as, its reserved bits as zeros. While a command is pending this is the committed state (R34). -/
def readReg (r : Reg) (s : State) : Word :=
  match r with
  | .ID => idValue
  | .VERSION => versionValue
  | .CTRL => ctrlWord s.ctrl
  | .STATUS => statusWord s.status
  | .CMD => s.cmd
  | .ERR_CAUSE => s.errCause.setWidth 32
  | .ERR_INFO => s.errInfo
  | .SRC => s.args.src
  | .LEN => s.args.len
  | .DST => s.args.dst
  | .KEY => s.args.key
  | .KLEN => s.args.klen
  | .CTR_HI => s.args.ctrHi
  | .CTR_LO => s.args.ctrLo
  | .OUT_LEN => s.outLen
  | .RESULT => s.trunc.result
  | .CODE => s.trunc.code
  | .T_OFF => s.trunc.tOff.setWidth 32
  | .H0 => s.chain.h0
  | .H1 => s.chain.h1
  | .H2 => s.chain.h2
  | .H3 => s.chain.h3
  | .H4 => s.chain.h4

/-- Go on with a host write while no command is pending; while one is pending the write is dropped and sets OVR (R33). -/
def unlessBusy (s written : State) : State :=
  if s.status.busy then { s with status := statusAfterDrop s.status } else written

/-- A write to CTRL: the soft reset where `w[31]` = 1, else the two enables (R28, R232). -/
def writeCtrl (w : Word) (s : State) : State :=
  if w.getLsbD 31 then softReset s else { s with ctrl := ctrlOfWord w }

/-- A host write of `w` to a register: RO registers ignore it (R25), CTRL and STATUS always take it (R28, R29), a write to
CMD is an issue (R101), and every write but those is dropped while a command is pending (R33). -/
def writeReg (r : Reg) (w : Word) (s : State) : State :=
  match r with
  | .ID => s
  | .VERSION => s
  | .CTRL => writeCtrl w s
  | .STATUS => { s with status := statusAfterW1C s.status w }
  | .CMD => unlessBusy s (issue w s)
  | .ERR_CAUSE => s
  | .ERR_INFO => s
  | .SRC => unlessBusy s { s with args := { s.args with src := w } }
  | .LEN => unlessBusy s { s with args := { s.args with len := w } }
  | .DST => unlessBusy s { s with args := { s.args with dst := w } }
  | .KEY => unlessBusy s { s with args := { s.args with key := w } }
  | .KLEN => unlessBusy s { s with args := { s.args with klen := w } }
  | .CTR_HI => unlessBusy s { s with args := { s.args with ctrHi := w } }
  | .CTR_LO => unlessBusy s { s with args := { s.args with ctrLo := w } }
  | .OUT_LEN => s
  | .RESULT => s
  | .CODE => s
  | .T_OFF => s
  | .H0 => unlessBusy s { s with chain := { s.chain with h0 := w } }
  | .H1 => unlessBusy s { s with chain := { s.chain with h1 := w } }
  | .H2 => unlessBusy s { s with chain := { s.chain with h2 := w } }
  | .H3 => unlessBusy s { s with chain := { s.chain with h3 := w } }
  | .H4 => unlessBusy s { s with chain := { s.chain with h4 := w } }

end Sys2Proof.Machine
end

