-- ==== Sys2Proof/Machine/Bus.lean ====
section
/-!
DEFINITION. The bus slave port (10_state.md R21; 20_memory.md R60 to R67): which target a request reaches, what a read
returns, what a write does, and the response.
-/

namespace Sys2Proof.Machine

/-- The two kinds of target in the window (R60). -/
inductive Target where
  /-- A register, reached by a 4-byte access. -/
  | reg (r : Reg)
  /-- `n` bytes of BUF from index `i` on, n being 1 or 4. -/
  | bytes (i n : Nat)
deriving DecidableEq, Repr

/-- The window offset of BUF[0] (R23). -/
def bufOffset : Nat := 0x1000

/-- The target of an access of `size` bytes at window offset `addr`, or `none` where it gets ERROR (R23, R61 to R63): BUF
takes 1-byte and aligned 4-byte accesses, a register takes aligned 4-byte accesses, and nothing else is mapped. -/
def resolve (addr size : Nat) : Option Target :=
  if size = 4 ∧ addr % 4 = 0 then
    if addr < bufOffset then (regAt addr).map Target.reg
    else if addr - bufOffset + 4 ≤ Config.bufBytes then some (.bytes (addr - bufOffset) 4) else none
  else if size = 1 then
    if addr < bufOffset then none
    else if addr - bufOffset < Config.bufBytes then some (.bytes (addr - bufOffset) 1) else none
  else none

/-- Data bits from bytes, the first in bits 7:0, the bits above the last byte zero (R64). -/
def busWord : List Byte → Word
  | [] => 0
  | b :: bs => b.setWidth 32 ||| (busWord bs <<< 8)

/-- The first `n` bytes of a data word, bits 7:0 first (R64). -/
def busBytes : Nat → Word → List Byte
  | 0, _ => []
  | n + 1, w => w.setWidth 8 :: busBytes n (w >>> 8)

/-- The value a read returns (R64), or the lowest unwritten index it covers (R41). -/
def readTarget (t : Target) (s : State) : Except Nat Word :=
  match t with
  | .reg r => .ok (readReg r s)
  | .bytes i n =>
    match s.buf.readBytes i n with
    | .ok bs => .ok (busWord bs)
    | .error j => .error j

/-- What a host write does: to a register by its rule, to BUF byte by byte in one step (R64, R67), dropped while a command
is pending (R33). -/
def writeTarget (t : Target) (w : Word) (s : State) : State :=
  match t with
  | .reg r => writeReg r w s
  | .bytes i n => unlessBusy s { s with buf := s.buf.writeBytes i (busBytes n w) }

/-- The host's record of one transaction performed: its position advances by one (R22) and the response is kept (R21). -/
def noteTransaction (resp : Resp) (rdata : Word) (s : State) : State :=
  { s with
    host := { s.host with position := s.host.position + 1, response := some { resp := resp, rdata := rdata } } }

/-- One of the transactions that may still precede a pending completion passes (R103). -/
def tick (s : State) : State := { s with sched := { s.sched with latency := s.sched.latency - 1 } }

/-- Record a bus error; the engine's state is unchanged (R63). -/
def recordBusError (r : Request) (s : State) : State :=
  { s with host := { s.host with busErrors := { addr := r.addr, size := r.size, kind := r.kind } :: s.host.busErrors } }

/-- The read-data lines of the response to the transaction about to be performed, where the spec gives them no value. -/
def undrivenRdata (s : State) : Word := Config.undrivenRdata s.host.position

/-- A transaction that gets ERROR: no effect on the engine, `rdata` = 0 on a read, and a recorded bus error (R62, R63). -/
def errorTransaction (r : Request) (s : State) : State :=
  recordBusError r
    (noteTransaction .error
      (match r.kind with
        | .read => 0
        | .write => undrivenRdata s) s)

/-- A transaction while `rst` is asserted: no effect on the engine, no defined response, and a recorded bus error (R230;
assumption log 5). -/
def resetTransaction (r : Request) (s : State) : State :=
  recordBusError r
    (noteTransaction (if Config.undrivenError s.host.position then .error else .okay) (undrivenRdata s) s)

/-- One host transaction (R21). A read that covers an unwritten byte is the fault `uninitRead` (R41). -/
def transaction (r : Request) (s : State) : Result :=
  if s.rst then .next (resetTransaction r (tick s))
  else
    match resolve r.addr.toNat r.size with
    | none => .next (errorTransaction r (tick s))
    | some t =>
      match r.kind with
      | .read =>
        match readTarget t s with
        | .error i => .fault (.uninitRead i)
        | .ok v => .next (noteTransaction .okay v (tick s))
      | .write => .next (noteTransaction .okay (undrivenRdata s) (writeTarget t r.wdata (tick s)))

end Sys2Proof.Machine
end

