-- ==== Sys2Proof/Machine/HostAgent.lean ====
section
/-!
DEFINITION. What one entry of the agenda does: a transaction, one turn of the host's `wait` loop (30_encoding.md R93), or a
change of the `rst` input (70_reset_and_hazards.md R230).
-/

namespace Sys2Proof.Machine

/-- The entry is part of the host program: a transaction or a `wait` loop of them, and not a change of `rst`, which the
platform makes (R22, R90, R93). -/
def HostAction.isHostProgram : HostAction → Bool
  | .bus _ => true
  | .wait => true
  | .rstAssert => false
  | .rstRelease => false

/-- Give the host a new list of things to do. -/
def setAgenda (as : List HostAction) (s : State) : State := { s with host := { s.host with agenda := as } }

/-- The request of `rd32 STATUS` (R90, R91). -/
def readStatusRequest : Request := { kind := .read, addr := 0x00C, size := 4, wdata := 0 }

/-- Bit 0 of the last value read is 1: the test of the `wait` loop (R93). -/
def sawBusy (s : State) : Bool :=
  match s.host.response with
  | none => false
  | some r => r.rdata.getLsbD 0

/-- One turn of `wait`: read STATUS, and stay at the loop while bit 0 of the value read is 1 (R93). -/
def waitTurn (rest : List HostAction) (s : State) : Result :=
  match transaction readStatusRequest s with
  | .next t => .next (if sawBusy t then t else setAgenda rest t)
  | .fault r => .fault r
  | .refused r => .refused r

/-- The platform asserts `rst`: the engine is in its hard-reset state (R230). -/
def assertRst (s : State) : State := { hardReset s with rst := true }

/-- The platform releases `rst`: where it was asserted, the engine is then in its hard-reset state (R230). -/
def releaseRst (s : State) : State := if s.rst then { hardReset s with rst := false } else s

/-- The effect of the agenda's first entry `a`, `rest` being what follows it. -/
def perform (a : HostAction) (rest : List HostAction) (s : State) : Result :=
  match a with
  | .bus r => transaction r (setAgenda rest s)
  | .wait => waitTurn rest s
  | .rstAssert => .next (assertRst (setAgenda rest s))
  | .rstRelease => .next (releaseRst (setAgenda rest s))

end Sys2Proof.Machine
end

