-- ==== Sys2Proof/Machine/HostProgram.lean ====
section
/-!
DEFINITION. The host's assembly notation (30_encoding.md R90 to R93): source lines, and their expansion into the agenda's
entries. The lines have no engine-visible meaning beyond their expansion (R93).
-/

namespace Sys2Proof.Machine

/-- A line of a host program (R90, R93). Offsets are window offsets; a register is written by its name (R91). -/
inductive HostLine where
  | wr32 (off : Nat) (v : Word)
  | wr8 (off : Nat) (v : Word)
  | rd32 (off : Nat)
  | rd8 (off : Nat)
  | set (r : Reg) (v : Word)
  | cmd (w : Word)
  | wait
  | clr
  | ldbufText (i : Nat) (text : String)
  | ldbuf (i : Nat) (bytes : List Byte)
  | ldbuf32 (i : Nat) (bytes : List Byte)
  | run (w : Word)
  | label (name : String)
deriving DecidableEq, Repr

/-- The transactions of R90. -/
def busAction (kind : AccessKind) (size off : Nat) (v : Word) : HostAction :=
  .bus { kind := kind, addr := BitVec.ofNat 13 off, size := size, wdata := v }

/-- `wr32 OFF, V` (R90). -/
def wr32Action (off : Nat) (v : Word) : HostAction := busAction .write 4 off v

/-- `wr8 OFF, V`, whose data is V & 0xFF (R90). -/
def wr8Action (off : Nat) (v : Word) : HostAction := busAction .write 1 off (v &&& 0xFF)

/-- One `wr8 BUF+i+k` for each byte k (R93). -/
def ldbufActions : Nat → List Byte → List HostAction
  | _, [] => []
  | i, b :: bs => wr8Action (bufOffset + i) (b.setWidth 32) :: ldbufActions (i + 1) bs

/-- One `wr32 BUF+i+4j` for each group of four bytes, the first byte of a group in bits 7:0 (R93). -/
def ldbuf32Actions : Nat → List Byte → List HostAction
  | i, b0 :: b1 :: b2 :: b3 :: rest =>
    wr32Action (bufOffset + i) (wordOfBytes b0 b1 b2 b3) :: ldbuf32Actions (i + 4) rest
  | _, _ => []

/-- The ASCII bytes of a text (R93). -/
def asciiBytes (text : String) : List Byte := text.toList.map fun c => BitVec.ofNat 8 c.toNat

/-- A region of the window from an offset on, all of it below 0x2000 (R21, R23). -/
def inWindow (off n : Nat) : Bool := decide (off + n ≤ 0x2000)

/-- The agenda entries a line expands to (R90, R93); `none` for a line that is no line of the notation: an offset outside
the window, text that is not ASCII, or an `ldbuf32` that is not made of whole aligned groups. -/
def assembleLine : HostLine → Option (List HostAction)
  | .wr32 off v => if inWindow off 1 then some [wr32Action off v] else none
  | .wr8 off v => if inWindow off 1 then some [wr8Action off v] else none
  | .rd32 off => if inWindow off 1 then some [busAction .read 4 off 0] else none
  | .rd8 off => if inWindow off 1 then some [busAction .read 1 off 0] else none
  | .set r v => some [wr32Action (regOffset r) v]
  | .cmd w => some [wr32Action (regOffset .CMD) w]
  | .wait => some [.wait]
  | .clr => some [wr32Action (regOffset .STATUS) 0x0000000E]
  | .ldbufText i text =>
    if text.toList.all (fun c => decide (c.toNat < 128)) && inWindow (bufOffset + i) text.length then
      some (ldbufActions i (asciiBytes text))
    else none
  | .ldbuf i bytes => if inWindow (bufOffset + i) bytes.length then some (ldbufActions i bytes) else none
  | .ldbuf32 i bytes =>
    if i % 4 = 0 ∧ bytes.length % 4 = 0 ∧ inWindow (bufOffset + i) bytes.length = true then
      some (ldbuf32Actions i bytes)
    else none
  | .run w => some [wr32Action (regOffset .CMD) w, .wait]
  | .label _ => some []

/-- The agenda of a host program, its lines in order (R90). -/
def assemble : List HostLine → Option (List HostAction)
  | [] => some []
  | l :: ls =>
    match assembleLine l, assemble ls with
    | some as, some bs => some (as ++ bs)
    | _, _ => none

end Sys2Proof.Machine
end

