-- ==== Sys2Proof/Machine/Operands.lean ====
section
/-!
DEFINITION. The operands of a command and the checks on them, in the order of 40_command.md R106: the digit count, the
regions of BUF and their bounds (20_memory.md R70), the input reads (R107), and the counter (10_state.md R36).
-/

namespace Sys2Proof.Machine

/-- The region (base, n) is in bounds: base + n ≤ BUF_BYTES over unbounded integers (R70). -/
def inBounds (base : Word) (n : Nat) : Bool := decide (base.toNat + n ≤ Config.bufBytes)

/-- ERR_INFO of a BOUNDS failure of the source region (R201). -/
def sourceRegion : Word := 1

/-- ERR_INFO of a BOUNDS failure of the key region (R201). -/
def keyRegion : Word := 2

/-- ERR_INFO of a BOUNDS failure of the destination region (R201). -/
def destRegion : Word := 3

/-- Steps 3, 4 and 7 of R106: go on where the region is in bounds, else raise BOUNDS with the region's number. -/
def checkRegion (which base : Word) (n : Nat) (s : State) (k : Result) : Result :=
  if inBounds base n then k else .next (raiseCause .bounds which s)

/-- Step 5 of R106: read an input region and go on with its bytes; an unwritten byte is the fault `uninitRead` (R107). -/
def withBytes (base : Word) (n : Nat) (s : State) (k : List Byte → Result) : Result :=
  match s.buf.readBytes base.toNat n with
  | .ok bs => k bs
  | .error i => .fault (.uninitRead i)

/-- Step 2 of R106: go on where 1 ≤ d ≤ 9, else raise DIGITS_RANGE with d. -/
def checkDigits (d : BitVec 4) (s : State) (k : Result) : Result :=
  if 1 ≤ d.toNat ∧ d.toNat ≤ 9 then k else .next (raiseCause .digitsRange (d.setWidth 32) s)

/-- The counter operand of `CTR.ENC`: CTR_HI in bits 63:32 and CTR_LO in bits 31:0 (R36). -/
def counterOperand (a : Args) : DWord := a.ctrHi ++ a.ctrLo

end Sys2Proof.Machine
end

