-- ==== Sys2Proof/Machine/Base32.lean ====
section
/-!
DEFINITION. The Base32 decoder (41_base32.md R120 to R125) and the command `B32.DEC` (R126).
-/

namespace Sys2Proof.Machine

/-- The class of an input byte (R120). -/
inductive B32Class where
  | value (v : BitVec 5)
  | padding
  | invalid
deriving DecidableEq, Repr

/-- The class and value of an input byte (R120). -/
def b32Class (c : Byte) : B32Class :=
  if c = 0x3D then .padding
  else if 0x41 ≤ c ∧ c ≤ 0x5A then .value ((c - 0x41).setWidth 5)
  else if 0x61 ≤ c ∧ c ≤ 0x7A then .value ((c - 0x61).setWidth 5)
  else if 0x32 ≤ c ∧ c ≤ 0x37 then .value ((c - 0x32 + 26).setWidth 5)
  else .invalid

/-- The values of the significant characters of an input whose first byte has index `i`, with every `=` stripped (R121),
or the index of the first invalid byte (R122). -/
def b32Values : Nat → List Byte → Except Nat (List (BitVec 5))
  | _, [] => .ok []
  | i, c :: cs =>
    match b32Class c with
    | .invalid => .error i
    | .padding => b32Values (i + 1) cs
    | .value v =>
      match b32Values (i + 1) cs with
      | .error j => .error j
      | .ok vs => .ok (v :: vs)

/-- The number X of a block: its values packed most significant first (R125). -/
def b32Number (vs : List (BitVec 5)) : Nat := vs.foldl (fun x v => x * 32 + v.toNat) 0

/-- The output bytes of a block of k values, its leftover bits discarded: byte t is (X >> (5k − 8(t+1))) & 0xFF (R125). -/
def b32Block (vs : List (BitVec 5)) : List Byte :=
  (List.range (5 * vs.length / 8)).map fun t =>
    BitVec.ofNat 8 (b32Number vs >>> (5 * vs.length - 8 * (t + 1)))

/-- The output bytes of a list of values, cut into `n` blocks of 8 and a last shorter one (R123, R125). -/
def b32Blocks : Nat → List (BitVec 5) → List Byte
  | 0, vs => b32Block vs
  | n + 1, vs => b32Block (vs.take 8) ++ b32Blocks n (vs.drop 8)

/-- The decoded bytes of a list of values (R125). -/
def b32Bytes (vs : List (BitVec 5)) : List Byte := b32Blocks (vs.length / 8) vs

/-- The decoded length: floor(5·m / 8) (R124). -/
def b32Length (m : Nat) : Nat := 5 * m / 8

/-- A last block of r characters is malformed for r = 1, 3 and 6 (R123). -/
def b32BadCount (r : Nat) : Bool := r == 1 || r == 3 || r == 6

/-- `B32.DEC` (R126). -/
def execB32Dec (s : State) : Result :=
  checkRegion sourceRegion s.args.src s.args.len.toNat s <|
  withBytes s.args.src s.args.len.toNat s fun secret =>
  match b32Values 0 secret with
  | .error i => .next (raiseCause .invalidChar (BitVec.ofNat 32 i) s)
  | .ok vs =>
    if b32BadCount (vs.length % 8) then .next (raiseCause .invalidLength (BitVec.ofNat 32 (vs.length % 8)) s)
    else
      checkRegion destRegion s.args.dst (b32Length vs.length) s <|
      .next (succeed (setOutLen (b32Length vs.length) (storeBytes s.args.dst (b32Bytes vs) s)))

end Sys2Proof.Machine
end

