-- ==== Sys2Proof/Machine/Bytes.lean ====
section
/-!
DEFINITION. The byte-order and rotation primitives of 00_scope.md R8 and R9.
-/

namespace Sys2Proof.Machine

/-- `ROTL_n(x)` for 0 < n < 32 (R8). -/
def rotl (n : Nat) (x : Word) : Word := (x <<< n) ||| (x >>> (32 - n))

/-- `BE32`: the big-endian word of four bytes (R9). -/
def be32 (b0 b1 b2 b3 : Byte) : Word := b0 ++ b1 ++ b2 ++ b3

/-- `BE32bytes`: a word's four bytes, most significant first (R9). -/
def be32Bytes (w : Word) : List Byte :=
  [w.extractLsb' 24 8, w.extractLsb' 16 8, w.extractLsb' 8 8, w.extractLsb' 0 8]

/-- `BE64bytes`: the eight bytes of a 64-bit value, most significant first (R9). -/
def be64Bytes (v : DWord) : List Byte :=
  [v.extractLsb' 56 8, v.extractLsb' 48 8, v.extractLsb' 40 8, v.extractLsb' 32 8,
   v.extractLsb' 24 8, v.extractLsb' 16 8, v.extractLsb' 8 8, v.extractLsb' 0 8]

/-- The big-endian words of a byte sequence, four bytes each: `BE32(B, 0)`, `BE32(B, 4)`, … (R9). -/
def be32Words : List Byte → List Word
  | b0 :: b1 :: b2 :: b3 :: rest => be32 b0 b1 b2 b3 :: be32Words rest
  | _ => []

/-- `zeros(n)`: n zero bytes (R153, R180). -/
def zeroBytes (n : Nat) : List Byte := List.replicate n 0x00

end Sys2Proof.Machine
end

