-- ==== Sys2Proof/Machine/Counter.lean ====
section
/-!
DEFINITION. The counter encoder and the command `CTR.ENC` (42_counter.md R140 to R142).
-/

namespace Sys2Proof.Machine

/-- `CTR.ENC`: the unsigned counter's eight bytes, most significant first, at DST (R141, R142). -/
def execCtrEnc (s : State) : Result :=
  checkRegion destRegion s.args.dst 8 s <|
  .next (succeed (setOutLen 8 (storeBytes s.args.dst (be64Bytes (counterOperand s.args)) s)))

end Sys2Proof.Machine
end

