-- ==== Sys2Proof/Machine/Sha1.lean ====
section
/-!
DEFINITION. SHA-1 (43_sha1.md R150 to R158) and the commands `SHA1.INIT`, `SHA1.BLOCK` and `SHA1.DIGEST` (R160 to R162).
-/

namespace Sys2Proof.Machine

/-- The round function f_t of round t: Ch, Parity, Maj, Parity (R150). -/
def sha1F (t : Nat) (b c d : Word) : Word :=
  if t < 20 then (b &&& c) ||| (~~~b &&& d)
  else if t < 40 then b ^^^ c ^^^ d
  else if t < 60 then (b &&& c) ||| (b &&& d) ||| (c &&& d)
  else b ^^^ c ^^^ d

/-- The round constant K_t of round t (R151). -/
def sha1K (t : Nat) : Word :=
  if t < 20 then 0x5A827999
  else if t < 40 then 0x6ED9EBA1
  else if t < 60 then 0x8F1BBCDC
  else 0xCA62C1D6

/-- The next `n` words of a message schedule whose words so far are given newest first:
W[t] = ROTL_1(W[t-3] ^ W[t-8] ^ W[t-14] ^ W[t-16]) (R152). -/
def sha1Extend : Nat → List Word → List Word
  | 0, ws => ws
  | n + 1, ws =>
    sha1Extend n (rotl 1 (ws.getD 2 0 ^^^ ws.getD 7 0 ^^^ ws.getD 13 0 ^^^ ws.getD 15 0) :: ws)

/-- The message schedule W[0..80) of a 64-byte block (R152). -/
def sha1Schedule (block : List Byte) : List Word := (sha1Extend 64 (be32Words block).reverse).reverse

/-- One round of the compression function on (a, b, c, d, e) = (h0, h1, h2, h3, h4) (R154). -/
def sha1Round (t : Nat) (w : Word) (v : Chain) : Chain :=
  { h0 := rotl 5 v.h0 + sha1F t v.h1 v.h2 v.h3 + v.h4 + sha1K t + w
    h1 := v.h0
    h2 := rotl 30 v.h1
    h3 := v.h2
    h4 := v.h3 }

/-- The rounds from round `t` on, one for each word of the schedule that is left (R154). -/
def sha1Rounds : Nat → List Word → Chain → Chain
  | _, [], v => v
  | t, w :: ws, v => sha1Rounds (t + 1) ws (sha1Round t w v)

/-- Word by word addition modulo 2^32, the last step of the compression function (R154, R155). -/
def chainAdd (h v : Chain) : Chain :=
  { h0 := h.h0 + v.h0, h1 := h.h1 + v.h1, h2 := h.h2 + v.h2, h3 := h.h3 + v.h3, h4 := h.h4 + v.h4 }

/-- `compress(H, B)` (R154). -/
def sha1Compress (h : Chain) (block : List Byte) : Chain := chainAdd h (sha1Rounds 0 (sha1Schedule block) h)

/-- The initial hash value IV (R156). -/
def sha1Iv : Chain :=
  { h0 := 0x67452301, h1 := 0xEFCDAB89, h2 := 0x98BADCFE, h3 := 0x10325476, h4 := 0xC3D2E1F0 }

/-- The number of zero bytes in the padding of an L-byte message: (55 − L) mod 64 (R153). -/
def sha1PadZeros (l : Nat) : Nat := ((55 - (l : Int)) % 64).toNat

/-- `P(M)`: the message, the byte 0x80, zeros, and the big-endian bit length (R153). -/
def sha1Pad (m : List Byte) : List Byte :=
  m ++ [0x80] ++ zeroBytes (sha1PadZeros m.length) ++ be64Bytes (BitVec.ofNat 64 (8 * m.length))

/-- Compress the first `n` 64-byte blocks of `p` into `h`, in order (R157). -/
def sha1Blocks : Nat → List Byte → Chain → Chain
  | 0, _, h => h
  | n + 1, p, h => sha1Blocks n (p.drop 64) (sha1Compress h (p.take 64))

/-- `SHA1(M)`: the final chaining value (R157). -/
def sha1 (m : List Byte) : Chain := sha1Blocks ((sha1Pad m).length / 64) (sha1Pad m) sha1Iv

/-- `DigestBytes(H)`: H0 to H4, each most significant byte first (R158). -/
def digestBytes (h : Chain) : List Byte :=
  be32Bytes h.h0 ++ be32Bytes h.h1 ++ be32Bytes h.h2 ++ be32Bytes h.h3 ++ be32Bytes h.h4

/-- `SHA1.INIT` (R160). -/
def execSha1Init (s : State) : Result := .next (succeed (setChain sha1Iv s))

/-- `SHA1.BLOCK` (R161). -/
def execSha1Block (s : State) : Result :=
  checkRegion sourceRegion s.args.src 64 s <|
  withBytes s.args.src 64 s fun block =>
  .next (succeed (setChain (sha1Compress s.chain block) s))

/-- The outputs of `SHA1.DIGEST` and `HMAC.SHA1`: the 20 bytes of a final chaining value at DST, its words in H0 to H4,
and OUT_LEN = 20 (R162, R183). -/
def storeDigest (h : Chain) (s : State) : State :=
  setOutLen 20 (setChain h (storeBytes s.args.dst (digestBytes h) s))

/-- `SHA1.DIGEST` (R162). -/
def execSha1Digest (s : State) : Result :=
  checkRegion sourceRegion s.args.src s.args.len.toNat s <|
  withBytes s.args.src s.args.len.toNat s fun message =>
  checkRegion destRegion s.args.dst 20 s <|
  .next (succeed (storeDigest (sha1 message) s))

end Sys2Proof.Machine
end

