-- ==== Sys2Proof/Machine/Hmac.lean ====
section
/-!
DEFINITION. HMAC-SHA1 (44_hmac.md R180 to R182) and the command `HMAC.SHA1` (R183).
-/

namespace Sys2Proof.Machine

/-- `K0`: the key, or its digest where it exceeds 64 bytes, zero-padded to 64 bytes (R180). -/
def hmacKeyBlock (key : List Byte) : List Byte :=
  if 64 < key.length then digestBytes (sha1 key) ++ zeroBytes 44 else key ++ zeroBytes (64 - key.length)

/-- The byte-wise XOR of a block with a repeated pad byte (R181). -/
def xorPad (pad : Byte) (block : List Byte) : List Byte := block.map (· ^^^ pad)

/-- `SHA1(ipad ∥ M)`, the inner hash (R181, R183). -/
def hmacInner (key message : List Byte) : Chain := sha1 (xorPad 0x36 (hmacKeyBlock key) ++ message)

/-- `SHA1(opad ∥ DigestBytes(inner hash))`, whose bytes are the MAC (R182, R183). -/
def hmacSha1 (key message : List Byte) : Chain :=
  sha1 (xorPad 0x5c (hmacKeyBlock key) ++ digestBytes (hmacInner key message))

/-- `HMAC.SHA1` (R183). The regions are checked and read in the order source, key (R106, R107). -/
def execHmacSha1 (s : State) : Result :=
  checkRegion sourceRegion s.args.src s.args.len.toNat s <|
  checkRegion keyRegion s.args.key s.args.klen.toNat s <|
  withBytes s.args.src s.args.len.toNat s fun message =>
  withBytes s.args.key s.args.klen.toNat s fun key =>
  checkRegion destRegion s.args.dst 20 s <|
  .next (succeed (storeDigest (hmacSha1 key message) s))

end Sys2Proof.Machine
end

