-- ==== Sys2Proof/Machine/Nop.lean ====
section
/-!
DEFINITION. `NOP` (40_command.md R110).
-/

namespace Sys2Proof.Machine

/-- `NOP`: completes with no output (R110). -/
def execNop (s : State) : Result := .next (succeed s)

end Sys2Proof.Machine
end

