-- ==== Sys2Proof/Machine/Truncate.lean ====
section
/-!
DEFINITION. Dynamic truncation (45_truncate.md R191 to R193) and the command `TRUNC` (R190).
-/

namespace Sys2Proof.Machine

/-- The truncation offset: the low nibble of MAC[19] (R191). -/
def truncOffset (mac : List Byte) : BitVec 4 := (mac.getD 19 0 &&& 0x0F).setWidth 4

/-- The TruncatedValue at offset `o`: the big-endian word at byte o with bit 31 cleared (R192). -/
def truncValue (mac : List Byte) (o : Nat) : Word :=
  ((mac.getD o 0 &&& 0x7F).setWidth 32 <<< 24) ||| ((mac.getD (o + 1) 0).setWidth 32 <<< 16)
    ||| ((mac.getD (o + 2) 0).setWidth 32 <<< 8) ||| (mac.getD (o + 3) 0).setWidth 32

/-- The code: v mod 10^d (R193). -/
def truncCode (v : Word) (d : Nat) : Word := BitVec.ofNat 32 (v.toNat % 10 ^ d)

/-- The three outputs of `TRUNC d` on a 20-byte MAC (R190). -/
def truncate (mac : List Byte) (d : Nat) : Trunc :=
  { result := truncValue mac (truncOffset mac).toNat
    code := truncCode (truncValue mac (truncOffset mac).toNat) d
    tOff := truncOffset mac }

/-- `TRUNC d` (R190). -/
def execTrunc (d : BitVec 4) (s : State) : Result :=
  checkDigits d s <|
  checkRegion sourceRegion s.args.src 20 s <|
  withBytes s.args.src 20 s fun mac =>
  .next (succeed (setTrunc (truncate mac d.toNat) s))

end Sys2Proof.Machine
end

