-- ==== Sys2Proof/Machine/Dispatch.lean ====
section
/-!
DEFINITION. `exec`: the completion of a decoded command (40_command.md R104, R106 from step 2 on), one arm per command.
-/

namespace Sys2Proof.Machine

/-- The completion of command `i` (R104). -/
def exec (i : Instr) (s : State) : Host.Outcome State Fault Refusal :=
  match i with
  | .nop => Sys2Proof.Machine.execNop s
  | .sha1Init => Sys2Proof.Machine.execSha1Init s
  | .sha1Block => Sys2Proof.Machine.execSha1Block s
  | .sha1Digest => Sys2Proof.Machine.execSha1Digest s
  | .hmacSha1 => Sys2Proof.Machine.execHmacSha1 s
  | .ctrEnc => Sys2Proof.Machine.execCtrEnc s
  | .b32Dec => Sys2Proof.Machine.execB32Dec s
  | .trunc d => Sys2Proof.Machine.execTrunc d s

end Sys2Proof.Machine
end

