-- ==== Sys2Proof/Machine/Lifecycle.lean ====
section
/-!
DEFINITION. When the pending command completes (40_command.md R103) and what its completion does (R104, R106 step 1).
-/

namespace Sys2Proof.Machine

/-- The completion is the machine's next step: a command is pending, `rst` is not asserted, and either the free latency has
passed or the host has nothing left to do (R103, R244; assumption log 1). -/
def completionDue (s : State) : Bool :=
  s.status.busy && !s.rst && (s.sched.latency == 0 || s.host.agenda.isEmpty)

/-- The completion step: decode CMD, fail with ILLEGAL_CMD and the whole word where it is ILLEGAL, else complete its
command (R104, R106, R201). -/
def complete (s : State) : Result :=
  match decode s.cmd with
  | .error _ => .next (raiseCause .illegalCmd s.cmd s)
  | .ok i => exec i s

end Sys2Proof.Machine
end

