-- ==== Sys2Proof/Machine/Step.lean ====
section
/-!
DEFINITION. One step of the whole machine: the completion of the pending command where it is due, else the next thing the
host or the platform does; with nothing to do the machine keeps its state (60_exceptions.md R216).
-/

namespace Sys2Proof.Machine

/-- One step in the single order of R72. -/
def step (s : State) : Host.Outcome State Fault Refusal :=
  if completionDue s then complete s
  else
    match s.host.agenda with
    | [] => .next s
    | a :: rest => perform a rest s

/-- `s` with the command word `w` accepted and its completion due at the very next step (assumption log 3): `rst` released,
the word issued as R101 says, and no host transaction before its completion (R103 allows none). -/
def State.withFetchWord (s : State) (nbits w : Nat) : State :=
  { acceptCommand (BitVec.ofNat 32 (w % 2 ^ nbits)) s with
    rst := false
    sched := { s.sched with latency := 0 } }

end Sys2Proof.Machine
end

