-- ==== Sys2Proof/Safety.lean ====
section
/-!
DEFINITION. What the claims about the machine speak of: the end of a run and a fault-free run (70_reset_and_hazards.md
R244), the hard-reset state of the engine (R230), and the invariant of the engine's registers.
-/

namespace Sys2Proof.Machine

/-- The run is over: the host program has performed its last transaction, whatever changes of `rst` the platform has still
to make, and no command is pending (R244, R22). -/
def RunOver (s : State) : Prop := (∀ a ∈ s.host.agenda, a.isHostProgram = false) ∧ s.status.busy = false

/-- No bus error has been recorded so far (R63, R244). -/
def NoBusError (s : State) : Prop := s.host.busErrors = []

/-- The engine is in its hard-reset state (R230): all but the `rst` level, the host and the model's own fields. -/
def InHardReset (s : State) : Prop :=
  s = { State.reset with rst := s.rst, host := s.host, sched := s.sched }

/-- ERR_INFO is one of the details R201 gives for the cause in ERR_CAUSE. -/
def InfoFitsCause (s : State) : Prop :=
  (s.errCause = 0x00 ∧ s.errInfo = 0) ∨
  (s.errCause = causeCode .illegalCmd ∧ s.errInfo = s.cmd) ∨
  (s.errCause = causeCode .bounds ∧ 1 ≤ s.errInfo.toNat ∧ s.errInfo.toNat ≤ 3) ∨
  (s.errCause = causeCode .invalidChar ∧ s.errInfo.toNat < Config.bufBytes) ∨
  (s.errCause = causeCode .invalidLength ∧ (s.errInfo = 1 ∨ s.errInfo = 3 ∨ s.errInfo = 6)) ∨
  (s.errCause = causeCode .digitsRange ∧ (s.errInfo = 0 ∨ (10 ≤ s.errInfo.toNat ∧ s.errInfo.toNat ≤ 15)))

/-- The invariant of the engine, which holds after reset and which every step keeps. -/
structure Inv (s : State) : Prop where
  /-- BUF's contents are in canonical form. -/
  bufCanonical : s.buf.wf = true
  /-- Every written byte is a position of BUF (R40, R108). -/
  bufInside : s.buf.inside = true
  /-- RESULT is a 31-bit value (R38, R192). -/
  resultRange : s.trunc.result.toNat < 2 ^ 31
  /-- CODE is below 10^9 (R38, R193). -/
  codeRange : s.trunc.code.toNat < 10 ^ 9
  /-- OUT_LEN never exceeds BUF_BYTES (R37, R70). -/
  outLenRange : s.outLen.toNat ≤ Config.bufBytes
  /-- DONE and ERR are never both 1 (R29, R205). -/
  notDoneAndErr : ¬(s.status.done = true ∧ s.status.err = true)
  /-- While a command is pending DONE, ERR, ERR_CAUSE and ERR_INFO are 0 (R101). -/
  pendingClean : s.status.busy = true →
    s.status.done = false ∧ s.status.err = false ∧ s.errCause = 0 ∧ s.errInfo = 0
  /-- DONE goes with no cause: only a failed completion writes one (R31). -/
  doneClean : s.status.done = true → s.errCause = 0
  /-- ERR goes with a cause (R104, R200). -/
  errHasCause : s.status.err = true → s.errCause ≠ 0
  /-- ERR_CAUSE holds a code of R200 and ERR_INFO a detail R201 gives for it. -/
  infoFits : InfoFitsCause s
  /-- While `rst` is asserted the engine is in its hard-reset state (R230). -/
  rstHolds : s.rst = true → InHardReset s

/-- `n` steps, stopping at the first that does not answer a next state. -/
def steps : Nat → State → Result
  | 0, s => .next s
  | n + 1, s =>
    match step s with
    | .next t => steps n t
    | .fault r => .fault r
    | .refused r => .refused r

/-! ### How the claims write an access and a completion -/

/-- A 4-byte access of a register (R62, R90). -/
def regAccess (kind : AccessKind) (r : Reg) (w : Word) : Request :=
  { kind := kind, addr := BitVec.ofNat 13 (regOffset r), size := 4, wdata := w }

/-- An access of `n` bytes at BUF index `i` (R23, R90). -/
def bufAccess (kind : AccessKind) (i n : Nat) (w : Word) : Request :=
  { kind := kind, addr := BitVec.ofNat 13 (0x1000 + i), size := n, wdata := w }

/-- The accesses that get no ERROR (R23, R24, R61, R62), in numbers: four aligned bytes of a mapped register or of BUF, or
one byte of BUF. -/
def Served (r : Request) : Prop :=
  (r.size = 4 ∧ r.addr.toNat % 4 = 0 ∧
    ((r.addr.toNat ≤ 0x60 ∧ r.addr.toNat ≠ 0x1C ∧ r.addr.toNat ≠ 0x3C) ∨ 0x1000 ≤ r.addr.toNat)) ∨
  (r.size = 1 ∧ 0x1000 ≤ r.addr.toNat)

/-- The registers marked RO in R24. -/
def readOnlyRegs : List Reg := [.ID, .VERSION, .ERR_CAUSE, .ERR_INFO, .OUT_LEN, .RESULT, .CODE, .T_OFF]

/-- The registers whose host writes R33 drops while a command is pending, but CMD. -/
def operandRegs : List Reg :=
  [.SRC, .LEN, .DST, .KEY, .KLEN, .CTR_HI, .CTR_LO, .H0, .H1, .H2, .H3, .H4]

/-- `t` is `s` but for the host's record of a transaction that was answered OKAY, with `rdata` where it was a read. -/
def AnsweredOkay (kind : AccessKind) (rdata : Word) (s t : State) : Prop :=
  t.host.agenda = s.host.agenda ∧ t.host.position = s.host.position + 1 ∧ t.host.busErrors = s.host.busErrors ∧
  ∃ v, t.host.response = some { resp := .okay, rdata := v } ∧ (kind = .read → v = rdata)

/-- Nothing of the engine differs: `t` is `s` but for the host and the model's own fields. -/
def SameEngine (s t : State) : Prop := t = { s with host := t.host, sched := t.sched }

/-- STATUS after a success: BUSY 0, DONE 1, ERR and OVR as they were (R104). -/
def doneStatus (st : Status) : Status := { busy := false, done := true, err := st.err, ovr := st.ovr }

/-- The state after a failure with a cause code and a detail: nothing but ERR_CAUSE, ERR_INFO and STATUS differs (R104,
R105). -/
def failedWith (code : BitVec 8) (info : Word) (s : State) : State :=
  { s with
    errCause := code
    errInfo := info
    status := { busy := false, done := s.status.done, err := true, ovr := s.status.ovr } }

/-! ### A chain of `SHA1.BLOCK` commands (R163) -/

/-- From chaining value `h`, one successful `SHA1.BLOCK` after another over the given blocks, in order, ends with `h'`.
Between two commands the host may change anything but H0 to H4, or save them and write them back (R39, R163). -/
def Streams : Chain → List (List Byte) → Chain → Prop
  | h, [], h' => h = h'
  | h, b :: bs, h' =>
    ∃ u u' : State, u.chain = h ∧ u.args.src.toNat + 64 ≤ Config.bufBytes ∧
      u.buf.readBytes u.args.src.toNat 64 = .ok b ∧ exec .sha1Block u = .next u' ∧ Streams u'.chain bs h'

/-! ### The canonical Base32 encoding, which the engine does not implement (R127) -/

/-- The upper-case character of a 5-bit value (R120). -/
def b32Char (v : Nat) : Byte := if v < 26 then BitVec.ofNat 8 (0x41 + v) else BitVec.ofNat 8 (0x32 + (v - 26))

/-- The eight characters of a block of 1 to 5 bytes: its bits most significant first in groups of five, the last group
filled with zero bits, and `=` up to eight characters. -/
def b32EncodeBlock (bs : List Byte) : List Byte :=
  ((List.range ((8 * bs.length + 4) / 5)).map fun j =>
    b32Char ((bs.foldl (fun x b => x * 256 + b.toNat) 0 * 2 ^ (5 * ((8 * bs.length + 4) / 5) - 8 * bs.length)
      / 2 ^ (5 * ((8 * bs.length + 4) / 5 - 1 - j))) % 32))
  ++ List.replicate (8 - (8 * bs.length + 4) / 5) 0x3D

/-- The canonical Base32 encoding of a byte sequence: its blocks of five bytes in order, the last one shorter. -/
def b32Encode : List Byte → List Byte
  | b0 :: b1 :: b2 :: b3 :: b4 :: rest => b32EncodeBlock [b0, b1, b2, b3, b4] ++ b32Encode rest
  | [] => []
  | tail => b32EncodeBlock tail

/-- The lower-case form of a byte: A to Z become a to z (R128). -/
def lowerCase (c : Byte) : Byte := if 0x41 ≤ c ∧ c ≤ 0x5A then c + 0x20 else c

end Sys2Proof.Machine
end

