-- ==== Sys2Proof/Certificates/Slice0/Obligations.lean ====
section
/-!
DEFINITION. The statements about the model, one `def Obligations.<Name> : Prop` each. Each docstring says which rule of the
spec the statement formalises. In the statements 4096 is BUF_BYTES (00_scope.md R6).
-/

open Sys2Proof Sys2Proof.Machine

/-! ### Encoding -/

/-- R80, R82, R83: a word decodes as a command exactly where it is that command's word, so decoding undoes encoding for
every command with every digit count, and no command has a second word. -/
def Obligations.DecodeIffEncode : Prop :=
  ∀ (w : Word) (i : Instr), decode w = .ok i ↔ w = encode i

/-- R83, R84: the ILLEGAL words are those with RSV ≠ 0, with OP > 0x07, or with DIG ≠ 0 and OP ≠ 0x07. -/
def Obligations.IllegalWordsByField : Prop :=
  ∀ w : Word, (∃ e, decode w = .error e) ↔
    (w.toNat / 2 ^ 12 ≠ 0 ∨ 7 < w.toNat % 256 ∨ (w.toNat % 256 ≠ 7 ∧ w.toNat / 256 % 16 ≠ 0))

/-- R86: the legal words and their commands are exactly the 16 listed, and a TRUNC word with d outside 1..9 decodes but
always fails. The spec marks R86 as derived from R83 and R84. -/
def Obligations.LegalWordsAreSixteen : Prop :=
  (∀ (w : Word) (i : Instr), (decode w = .ok i ∧ i.wellFormed = true) ↔
    (w, i) ∈ ([(0x00000000, .nop), (0x00000001, .sha1Init), (0x00000002, .sha1Block), (0x00000003, .sha1Digest),
      (0x00000004, .hmacSha1), (0x00000005, .ctrEnc), (0x00000006, .b32Dec), (0x00000107, .trunc 1),
      (0x00000207, .trunc 2), (0x00000307, .trunc 3), (0x00000407, .trunc 4), (0x00000507, .trunc 5),
      (0x00000607, .trunc 6), (0x00000707, .trunc 7), (0x00000807, .trunc 8), (0x00000907, .trunc 9)]
      : List (Word × Instr))) ∧
  (∀ d : BitVec 4, ¬(1 ≤ d.toNat ∧ d.toNat ≤ 9) →
    decode (BitVec.ofNat 32 (7 + 256 * d.toNat)) = .ok (.trunc d) ∧
    ∀ s, ∃ t, exec (.trunc d) s = .next t ∧ t.status.err = true)

/-- R82, R83: words written out from the opcode map decode to the commands they stand for, and three reserved words
decode to none. -/
def Obligations.WrittenWordsDecode : Prop :=
  decodeTableWord 32 0x00000000 = some .nop ∧ decodeTableWord 32 0x00000001 = some .sha1Init ∧
  decodeTableWord 32 0x00000002 = some .sha1Block ∧ decodeTableWord 32 0x00000003 = some .sha1Digest ∧
  decodeTableWord 32 0x00000004 = some .hmacSha1 ∧ decodeTableWord 32 0x00000005 = some .ctrEnc ∧
  decodeTableWord 32 0x00000006 = some .b32Dec ∧ decodeTableWord 32 0x00000607 = some (.trunc 6) ∧
  decodeTableWord 32 0x00000008 = none ∧ decodeTableWord 32 0x00000100 = none ∧
  decodeTableWord 32 0x00001607 = none

/-! ### Steps -/

/-- R103, R104, R106: when the completion of a command is due (a command is pending, `rst` is not asserted, and the free
latency has passed or the host has nothing left to do) and CMD decodes to `i`, a step is `exec i`, with nothing around it.
The word that `withFetchWord` places is run so by the very next step. When a completion is due, and how a word is placed,
are the model's choices (assumption logs 1 and 3). -/
def Obligations.StepRunsDecodedCommand : Prop :=
  (∀ (s : State) (i : Instr), s.status.busy = true → s.rst = false →
    (s.sched.latency = 0 ∨ s.host.agenda = []) → decode s.cmd = .ok i → step s = exec i s) ∧
  (∀ (s : State) (w : Nat) (i : Instr), decode (BitVec.ofNat 32 w) = .ok i →
    step (s.withFetchWord 32 w) = exec i (s.withFetchWord 32 w))

/-- R83, R106 step 1, R201: when a completion is due and CMD is ILLEGAL, the command fails with ILLEGAL_CMD (code 0x01) and
ERR_INFO is the whole word; no output is written. When a completion is due is the model's choice (assumption log 1). -/
def Obligations.IllegalWordFailsAtCompletion : Prop :=
  ∀ (s : State) (e : DecodeError), s.status.busy = true → s.rst = false →
    (s.sched.latency = 0 ∨ s.host.agenda = []) → decode s.cmd = .error e →
    step s = .next (failedWith 0x01 s.cmd s)

/-- R20, R72, R216: when no completion is due, a step is what the first entry of the agenda does, and with an empty
agenda the machine keeps its state. The agenda is the model's form of what the host and the platform do (assumption log
9), and when a completion is due is the model's choice (assumption log 1). -/
def Obligations.HostMovesOtherwise : Prop :=
  ∀ s : State, ¬(s.status.busy = true ∧ s.rst = false ∧ (s.sched.latency = 0 ∨ s.host.agenda = [])) →
    (s.host.agenda = [] → step s = .next s) ∧
    (∀ a rest, s.host.agenda = a :: rest → step s = perform a rest s)

/-- Every step keeps the invariant of the engine (`Inv`): BUF's contents are canonical and inside BUF, RESULT is below 2^31
and CODE below 10^9, OUT_LEN is at most 4096, DONE and ERR are never both 1, a pending command has a clean status,
ERR_CAUSE and ERR_INFO fit together as R201 says, and while `rst` is asserted the engine is in its hard-reset state. -/
def Obligations.StepKeepsInv : Prop :=
  ∀ s t : State, Inv s → step s = .next t → Inv t

/-- The invariant holds right after reset (R43, R230). -/
def Obligations.ResetMeetsInv : Prop := Inv State.reset

/-- R24, R43: what each register reads as right after reset; no BUF byte is written and `irq` is 0. -/
def Obligations.ResetRegisterValues : Prop :=
  readReg .ID State.reset = 0x53484131 ∧ readReg .VERSION State.reset = 0x00000001 ∧
  (∀ r ∈ ([.CTRL, .STATUS, .CMD, .ERR_CAUSE, .ERR_INFO, .SRC, .LEN, .DST, .KEY, .KLEN, .CTR_HI, .CTR_LO,
    .OUT_LEN, .RESULT, .CODE, .T_OFF] : List Reg), readReg r State.reset = 0x00000000) ∧
  readReg .H0 State.reset = 0x67452301 ∧ readReg .H1 State.reset = 0xEFCDAB89 ∧
  readReg .H2 State.reset = 0x98BADCFE ∧ readReg .H3 State.reset = 0x10325476 ∧
  readReg .H4 State.reset = 0xC3D2E1F0 ∧
  (∀ i, State.reset.buf.read i = none) ∧ State.reset.irq = false ∧ State.reset.rst = false

/-- R41, R107, R203: the only stop of the machine is a read of a BUF byte that has not been written; no step is refused. -/
def Obligations.OnlyUnwrittenReadsStop : Prop :=
  ∀ s : State, (∀ r, step s ≠ .refused r) ∧
    (∀ i, step s = .fault (.uninitRead i) → s.buf.read i = none ∧ i < 4096)

/-- R103, R93: for a host that waits for the pending command the completion becomes due: after as many STATUS reads as the free
latency says, with nothing of the engine changed meanwhile, the completion is due. The free latency is the model's form of
R103's open number of transactions (assumption log 1), and that no reset comes during the loop is what an agenda with a
`wait` entry says (assumption log 9). -/
def Obligations.WaitReachesCompletion : Prop :=
  ∀ (s : State) (rest : List HostAction), s.status.busy = true → s.rst = false → s.host.agenda = .wait :: rest →
    ∃ t, steps s.sched.latency s = .next t ∧ SameEngine s t ∧ completionDue t = true ∧
      t.host.agenda = s.host.agenda ∧ t.host.position = s.host.position + s.sched.latency

/-- R93: one turn of `wait` reads STATUS with nothing of the engine changed: while the value read has BUSY = 1 the host stays
at the loop, and where it has BUSY = 0 the host goes on to what follows. That the loop is one agenda entry is the model's
form (assumption log 9), and when a completion comes before the turn is its choice (assumption log 1). -/
def Obligations.WaitTurnsUntilIdle : Prop :=
  ∀ (s : State) (rest : List HostAction), s.rst = false → s.host.agenda = .wait :: rest → completionDue s = false →
    ∃ t, step s = .next t ∧ SameEngine s t ∧ t.host.position = s.host.position + 1 ∧
      t.host.response = some { resp := .okay, rdata := readReg .STATUS s } ∧
      t.host.busErrors = s.host.busErrors ∧
      (s.status.busy = true → t.host.agenda = .wait :: rest) ∧
      (s.status.busy = false → t.host.agenda = rest)

/-- R69, R33, R230, R232: between issue and completion nothing the host does changes a command's inputs or its word: a step
that is not the completion leaves them all as they are and the command pending, or it is a reset, which aborts the command
with no output and no DONE or ERR (R240). When the completion is due is the model's choice (assumption log 1). -/
def Obligations.PendingInputsStable : Prop :=
  ∀ s t : State, s.status.busy = true → completionDue s = false → step s = .next t →
    (t.status.busy = true ∧
      t = { s with ctrl := t.ctrl, status := t.status, host := t.host, sched := t.sched }) ∨
    (t = { State.reset with rst := t.rst, buf := t.buf, host := t.host, sched := t.sched } ∧
      (t.buf = s.buf ∨ t.buf = []))

/-! ### What every command does and leaves alone -/

/-- R104, R105, R202: a completion either fails, and then nothing but ERR_CAUSE, ERR_INFO and STATUS differs, or succeeds,
and then nothing but BUF, H0 to H4, OUT_LEN, RESULT, CODE, T_OFF and STATUS differs, with BUSY 0 and DONE 1. -/
def Obligations.CommandSucceedsOrFailsPrecisely : Prop :=
  ∀ (i : Instr) (s t : State), exec i s = .next t →
    (t = failedWith t.errCause t.errInfo s ∧ 2 ≤ t.errCause.toNat ∧ t.errCause.toNat ≤ 5) ∨
    t = { s with
          buf := t.buf, chain := t.chain, outLen := t.outLen, trunc := t.trunc, status := doneStatus s.status }

/-- R37, R38, R39, R82: which command can change which output. Only the four buffer-writing commands change OUT_LEN and BUF,
only TRUNC changes RESULT, CODE and T_OFF, and only the SHA-1 commands and HMAC.SHA1 change H0 to H4. -/
def Obligations.OutputsOnlyByTheirCommands : Prop :=
  ∀ (i : Instr) (s t : State), exec i s = .next t →
    (i ∉ ([.sha1Digest, .hmacSha1, .ctrEnc, .b32Dec] : List Instr) → t.outLen = s.outLen ∧ t.buf = s.buf) ∧
    ((∀ d, i ≠ .trunc d) → t.trunc = s.trunc) ∧
    (i ∉ ([.sha1Init, .sha1Block, .sha1Digest, .hmacSha1] : List Instr) → t.chain = s.chain)

/-- R108: a command writes BUF only inside its destination region, which starts at DST and has as many bytes as OUT_LEN says
afterwards, and every position it writes exists. -/
def Obligations.BufWritesStayInDestination : Prop :=
  ∀ (i : Instr) (s t : State), exec i s = .next t →
    (∀ a, (a < s.args.dst.toNat ∨ s.args.dst.toNat + t.outLen.toNat ≤ a) → t.buf.read a = s.buf.read a) ∧
    (t.buf = s.buf ∨ s.args.dst.toNat + t.outLen.toNat ≤ 4096)

/-! ### The commands -/

/-- R110: the word 0x00000000 is NOP and every other word with OP = 0 is ILLEGAL; NOP always completes, with BUSY 0 and
DONE 1, and changes nothing else. -/
def Obligations.NopOnlyCompletes : Prop :=
  encode .nop = 0x00000000 ∧ (∀ w : Word, w.toNat % 256 = 0 → w ≠ 0 → ∃ e, decode w = .error e) ∧
  ∀ s : State, exec .nop s = .next { s with status := doneStatus s.status }

/-- R160: SHA1.INIT always completes, with the initial hash value in H0 to H4, and changes nothing else. -/
def Obligations.Sha1InitLoadsIv : Prop :=
  encode .sha1Init = 0x00000001 ∧
  ∀ s : State, exec .sha1Init s =
    .next { s with
      chain := { h0 := 0x67452301, h1 := 0xEFCDAB89, h2 := 0x98BADCFE, h3 := 0x10325476, h4 := 0xC3D2E1F0 }
      status := doneStatus s.status }

/-- R161: SHA1.BLOCK compresses the 64 bytes at SRC into H0 to H4 and changes nothing else; it fails with BOUNDS(1) exactly
where SRC + 64 > 4096; an unwritten byte of an in-bounds block is the fault UninitRead. -/
def Obligations.Sha1BlockCompresses : Prop :=
  encode .sha1Block = 0x00000002 ∧
  (∀ (s : State) (block : List Byte), s.args.src.toNat + 64 ≤ 4096 →
    s.buf.readBytes s.args.src.toNat 64 = .ok block →
    exec .sha1Block s =
      .next { s with chain := sha1Compress s.chain block, status := doneStatus s.status }) ∧
  (∀ s : State, 4096 < s.args.src.toNat + 64 → exec .sha1Block s = .next (failedWith 0x02 1 s)) ∧
  (∀ (s : State) (i : Nat), s.args.src.toNat + 64 ≤ 4096 → s.args.src.toNat ≤ i → i < s.args.src.toNat + 64 →
    s.buf.read i = none → ∃ j, exec .sha1Block s = .fault (.uninitRead j))

/-- R162, R158, R69: SHA1.DIGEST of a readable message in bounds completes: the 20 digest bytes of the pre-command message
stand at DST and every other byte reads as before, H0 to H4 hold the final chaining value, OUT_LEN is 20, and nothing else
but BUSY and DONE changes. -/
def Obligations.Sha1DigestCompletes : Prop :=
  ∀ (s : State) (message : List Byte),
    s.args.src.toNat + s.args.len.toNat ≤ 4096 → s.args.dst.toNat + 20 ≤ 4096 →
    s.buf.readBytes s.args.src.toNat s.args.len.toNat = .ok message →
    ∃ t, exec .sha1Digest s = .next t ∧
      t = { s with buf := t.buf, chain := sha1 message, outLen := 20, status := doneStatus s.status } ∧
      t.buf.readBytes s.args.dst.toNat 20 = .ok (digestBytes (sha1 message)) ∧
      ∀ a, (a < s.args.dst.toNat ∨ s.args.dst.toNat + 20 ≤ a) → t.buf.read a = s.buf.read a

/-- R183, R69: HMAC.SHA1 of a readable key and message in bounds completes: the 20 MAC bytes of the pre-command key and
message stand at DST and every other byte reads as before, H0 to H4 hold the MAC's words, OUT_LEN is 20, and nothing else
but BUSY and DONE changes. -/
def Obligations.HmacSha1Completes : Prop :=
  ∀ (s : State) (key message : List Byte),
    s.args.src.toNat + s.args.len.toNat ≤ 4096 → s.args.key.toNat + s.args.klen.toNat ≤ 4096 →
    s.args.dst.toNat + 20 ≤ 4096 →
    s.buf.readBytes s.args.src.toNat s.args.len.toNat = .ok message →
    s.buf.readBytes s.args.key.toNat s.args.klen.toNat = .ok key →
    ∃ t, exec .hmacSha1 s = .next t ∧
      t = { s with buf := t.buf, chain := hmacSha1 key message, outLen := 20, status := doneStatus s.status } ∧
      t.buf.readBytes s.args.dst.toNat 20 = .ok (digestBytes (hmacSha1 key message)) ∧
      ∀ a, (a < s.args.dst.toNat ∨ s.args.dst.toNat + 20 ≤ a) → t.buf.read a = s.buf.read a

/-- R140, R141, R142: CTR.ENC in bounds writes the unsigned counter CTR_HI * 2^32 + CTR_LO as eight bytes, most significant
first, at DST, sets OUT_LEN to 8 and changes nothing else but BUSY and DONE; it fails with BOUNDS(3) where DST + 8 > 4096; it
reads no BUF byte, so it never faults. -/
def Obligations.CtrEncWritesCounter : Prop :=
  encode .ctrEnc = 0x00000005 ∧
  (∀ s : State, s.args.dst.toNat + 8 ≤ 4096 →
    ∃ t bs, exec .ctrEnc s = .next t ∧
      t = { s with buf := t.buf, outLen := 8, status := doneStatus s.status } ∧
      t.buf.readBytes s.args.dst.toNat 8 = .ok bs ∧
      (∀ j, j < 8 → (bs.getD j 0).toNat =
        (s.args.ctrHi.toNat * 2 ^ 32 + s.args.ctrLo.toNat) / 2 ^ (8 * (7 - j)) % 256) ∧
      ∀ a, (a < s.args.dst.toNat ∨ s.args.dst.toNat + 8 ≤ a) → t.buf.read a = s.buf.read a) ∧
  (∀ s : State, 4096 < s.args.dst.toNat + 8 → exec .ctrEnc s = .next (failedWith 0x02 3 s))

/-- R126, R124, R69: B32.DEC of a readable secret in bounds, with no invalid byte and a well-formed last block, whose
m values decode to n = floor(5m/8) bytes in bounds, completes: the decoded bytes of the pre-command secret stand at DST,
every other byte reads as before, OUT_LEN is n, and nothing else but BUSY and DONE changes. -/
def Obligations.B32DecCompletes : Prop :=
  ∀ (s : State) (secret : List Byte) (vs : List (BitVec 5)),
    s.args.src.toNat + s.args.len.toNat ≤ 4096 →
    s.buf.readBytes s.args.src.toNat s.args.len.toNat = .ok secret →
    b32Values 0 secret = .ok vs →
    vs.length % 8 ≠ 1 → vs.length % 8 ≠ 3 → vs.length % 8 ≠ 6 →
    s.args.dst.toNat + 5 * vs.length / 8 ≤ 4096 →
    ∃ t, exec .b32Dec s = .next t ∧
      t = { s with buf := t.buf, outLen := t.outLen, status := doneStatus s.status } ∧
      t.outLen.toNat = 5 * vs.length / 8 ∧
      t.buf.readBytes s.args.dst.toNat (5 * vs.length / 8) = .ok (b32Bytes vs) ∧
      ∀ a, (a < s.args.dst.toNat ∨ s.args.dst.toNat + 5 * vs.length / 8 ≤ a) → t.buf.read a = s.buf.read a

/-- R190 to R193: TRUNC d with 1 ≤ d ≤ 9 of 20 readable bytes in bounds completes: T_OFF is the low nibble o of byte 19,
RESULT is the big-endian number of bytes o to o + 3 with its top bit cleared, CODE is RESULT mod 10^d, and nothing else but
BUSY and DONE changes. -/
def Obligations.TruncCompletes : Prop :=
  ∀ (d : BitVec 4) (s : State) (mac : List Byte), 1 ≤ d.toNat → d.toNat ≤ 9 →
    s.args.src.toNat + 20 ≤ 4096 → s.buf.readBytes s.args.src.toNat 20 = .ok mac →
    ∃ t, exec (.trunc d) s = .next t ∧ t = { s with trunc := t.trunc, status := doneStatus s.status } ∧
      t.trunc.tOff.toNat = (mac.getD 19 0).toNat % 16 ∧
      t.trunc.result.toNat =
        (mac.getD t.trunc.tOff.toNat 0).toNat % 128 * 2 ^ 24 + (mac.getD (t.trunc.tOff.toNat + 1) 0).toNat * 2 ^ 16
          + (mac.getD (t.trunc.tOff.toNat + 2) 0).toNat * 2 ^ 8 + (mac.getD (t.trunc.tOff.toNat + 3) 0).toNat ∧
      t.trunc.code.toNat = t.trunc.result.toNat % 10 ^ d.toNat

/-- R106, R201: the bounds failures of SHA1.DIGEST and HMAC.SHA1 in their order: the source region first, then the key
region, and the destination region only after the inputs are read. -/
def Obligations.DigestAndHmacBoundsInOrder : Prop :=
  (∀ s : State, 4096 < s.args.src.toNat + s.args.len.toNat →
    exec .sha1Digest s = .next (failedWith 0x02 1 s) ∧ exec .hmacSha1 s = .next (failedWith 0x02 1 s)) ∧
  (∀ s : State, s.args.src.toNat + s.args.len.toNat ≤ 4096 → 4096 < s.args.key.toNat + s.args.klen.toNat →
    exec .hmacSha1 s = .next (failedWith 0x02 2 s)) ∧
  (∀ (s : State) (message : List Byte), s.args.src.toNat + s.args.len.toNat ≤ 4096 →
    s.buf.readBytes s.args.src.toNat s.args.len.toNat = .ok message → 4096 < s.args.dst.toNat + 20 →
    exec .sha1Digest s = .next (failedWith 0x02 3 s)) ∧
  (∀ (s : State) (key message : List Byte), s.args.src.toNat + s.args.len.toNat ≤ 4096 →
    s.args.key.toNat + s.args.klen.toNat ≤ 4096 →
    s.buf.readBytes s.args.src.toNat s.args.len.toNat = .ok message →
    s.buf.readBytes s.args.key.toNat s.args.klen.toNat = .ok key → 4096 < s.args.dst.toNat + 20 →
    exec .hmacSha1 s = .next (failedWith 0x02 3 s))

/-- R106, R122, R123, R126: the failures of B32.DEC in their order: BOUNDS(1), INVALID_CHAR with the index of the first
invalid byte, INVALID_LENGTH with the size of a last block of 1, 3 or 6 characters, BOUNDS(3). -/
def Obligations.B32DecFailuresInOrder : Prop :=
  (∀ s : State, 4096 < s.args.src.toNat + s.args.len.toNat → exec .b32Dec s = .next (failedWith 0x02 1 s)) ∧
  (∀ (s : State) (secret : List Byte) (i : Nat), s.args.src.toNat + s.args.len.toNat ≤ 4096 →
    s.buf.readBytes s.args.src.toNat s.args.len.toNat = .ok secret → b32Values 0 secret = .error i →
    ∃ t, exec .b32Dec s = .next t ∧ t = failedWith 0x03 t.errInfo s ∧ t.errInfo.toNat = i) ∧
  (∀ (s : State) (secret : List Byte) (vs : List (BitVec 5)), s.args.src.toNat + s.args.len.toNat ≤ 4096 →
    s.buf.readBytes s.args.src.toNat s.args.len.toNat = .ok secret → b32Values 0 secret = .ok vs →
    ((vs.length % 8 = 1 ∨ vs.length % 8 = 3 ∨ vs.length % 8 = 6) →
      exec .b32Dec s = .next (failedWith 0x04 (BitVec.ofNat 32 (vs.length % 8)) s)) ∧
    (¬(vs.length % 8 = 1 ∨ vs.length % 8 = 3 ∨ vs.length % 8 = 6) →
      4096 < s.args.dst.toNat + 5 * vs.length / 8 → exec .b32Dec s = .next (failedWith 0x02 3 s)))

/-- R84, R106, R190: TRUNC with d outside 1..9 fails with DIGITS_RANGE and ERR_INFO = d in every state, and with d in 1..9
and SRC + 20 > 4096 it fails with BOUNDS(1). -/
def Obligations.TruncFailuresInOrder : Prop :=
  (∀ (d : BitVec 4) (s : State), ¬(1 ≤ d.toNat ∧ d.toNat ≤ 9) →
    ∃ t, exec (.trunc d) s = .next t ∧ t = failedWith 0x05 t.errInfo s ∧ t.errInfo.toNat = d.toNat) ∧
  (∀ (d : BitVec 4) (s : State), 1 ≤ d.toNat → d.toNat ≤ 9 → 4096 < s.args.src.toNat + 20 →
    exec (.trunc d) s = .next (failedWith 0x02 1 s))

/-- R107: a command whose regions of input are in bounds and whose source region holds an unwritten byte stops with the
fault UninitRead at the lowest such byte, and HMAC.SHA1 with a readable source region and an unwritten byte in its key region
stops so at the lowest such byte of the key region, whether or not a later check would fail. That the fault names the lowest
index, and that the source region is read before the key region, is the model's reading (assumption log 2). -/
def Obligations.UnwrittenSourceByteFaults : Prop :=
  (∀ (s : State) (i n : Nat), s.args.src.toNat + n ≤ 4096 → s.args.src.toNat ≤ i → i < s.args.src.toNat + n →
    s.buf.read i = none → (∀ j, s.args.src.toNat ≤ j → j < i → s.buf.read j ≠ none) →
    (n = 64 → exec .sha1Block s = .fault (.uninitRead i)) ∧
    (n = s.args.len.toNat → exec .sha1Digest s = .fault (.uninitRead i)) ∧
    (n = s.args.len.toNat → s.args.key.toNat + s.args.klen.toNat ≤ 4096 →
      exec .hmacSha1 s = .fault (.uninitRead i)) ∧
    (n = s.args.len.toNat → exec .b32Dec s = .fault (.uninitRead i)) ∧
    (n = 20 → ∀ d : BitVec 4, 1 ≤ d.toNat → d.toNat ≤ 9 → exec (.trunc d) s = .fault (.uninitRead i))) ∧
  (∀ (s : State) (message : List Byte) (i : Nat), s.args.src.toNat + s.args.len.toNat ≤ 4096 →
    s.args.key.toNat + s.args.klen.toNat ≤ 4096 →
    s.buf.readBytes s.args.src.toNat s.args.len.toNat = .ok message →
    s.args.key.toNat ≤ i → i < s.args.key.toNat + s.args.klen.toNat → s.buf.read i = none →
    (∀ j, s.args.key.toNat ≤ j → j < i → s.buf.read j ≠ none) →
    exec .hmacSha1 s = .fault (.uninitRead i))

/-! ### SHA-1 -/

/-- R150, R151: the four round functions and constants by round. -/
def Obligations.RoundFunctionsAndConstants : Prop :=
  ∀ (t : Nat) (b c d : Word),
    (t < 20 → sha1F t b c d = (b &&& c) ||| (~~~b &&& d) ∧ sha1K t = 0x5A827999) ∧
    (20 ≤ t → t < 40 → sha1F t b c d = b ^^^ c ^^^ d ∧ sha1K t = 0x6ED9EBA1) ∧
    (40 ≤ t → t < 60 → sha1F t b c d = (b &&& c) ||| (b &&& d) ||| (c &&& d) ∧ sha1K t = 0x8F1BBCDC) ∧
    (60 ≤ t → t < 80 → sha1F t b c d = b ^^^ c ^^^ d ∧ sha1K t = 0xCA62C1D6)

/-- R152: the message schedule of a 64-byte block: 80 words, the first 16 the block's big-endian words, each later one the
rotation by one of the XOR of the words 3, 8, 14 and 16 before it. -/
def Obligations.ScheduleRecurrence : Prop :=
  ∀ block : List Byte, block.length = 64 →
    (sha1Schedule block).length = 80 ∧
    (∀ t, t < 16 → ((sha1Schedule block).getD t 0).toNat =
      (block.getD (4 * t) 0).toNat * 2 ^ 24 + (block.getD (4 * t + 1) 0).toNat * 2 ^ 16
        + (block.getD (4 * t + 2) 0).toNat * 2 ^ 8 + (block.getD (4 * t + 3) 0).toNat) ∧
    (∀ t, 16 ≤ t → t < 80 → (sha1Schedule block).getD t 0 =
      ((sha1Schedule block).getD (t - 3) 0 ^^^ (sha1Schedule block).getD (t - 8) 0
        ^^^ (sha1Schedule block).getD (t - 14) 0 ^^^ (sha1Schedule block).getD (t - 16) 0).rotateLeft 1)

/-- R154, R155: if v is the sequence of the working values (a, b, c, d, e), started at H and taken through the 80 rounds
by the round step, then the compression of H with a 64-byte block is H plus the last of them, word by word modulo 2^32. -/
def Obligations.CompressFollowsRounds : Prop :=
  ∀ (h : Chain) (block : List Byte) (v : Nat → Chain), block.length = 64 → v 0 = h →
    (∀ t, t < 80 → v (t + 1) =
      { h0 := (v t).h0.rotateLeft 5 + sha1F t (v t).h1 (v t).h2 (v t).h3 + (v t).h4 + sha1K t
          + (sha1Schedule block).getD t 0
        h1 := (v t).h0
        h2 := (v t).h1.rotateLeft 30
        h3 := (v t).h2
        h4 := (v t).h3 }) →
    sha1Compress h block =
      { h0 := h.h0 + (v 80).h0, h1 := h.h1 + (v 80).h1, h2 := h.h2 + (v 80).h2, h3 := h.h3 + (v 80).h3,
        h4 := h.h4 + (v 80).h4 }

/-- R153: the padding of a message of L bytes is the message, the byte 0x80, z = (55 - L) mod 64 zeros and the eight bytes of
the big-endian bit length (for 8 L < 2^64), and its length is a multiple of 64. -/
def Obligations.PaddingShape : Prop :=
  ∀ m : List Byte, 8 * m.length < 2 ^ 64 →
    ((sha1Pad m).length : Int) = m.length + 1 + (55 - (m.length : Int)) % 64 + 8 ∧
    (sha1Pad m).length % 64 = 0 ∧
    (∀ j, j < m.length → (sha1Pad m).getD j 0 = m.getD j 0) ∧
    (sha1Pad m).getD m.length 0 = 0x80 ∧
    (∀ j, m.length < j → j < (sha1Pad m).length - 8 → (sha1Pad m).getD j 0 = 0x00) ∧
    (∀ k, k < 8 → ((sha1Pad m).getD ((sha1Pad m).length - 8 + k) 0).toNat
      = 8 * m.length / 2 ^ (8 * (7 - k)) % 256)

/-- R158: the digest bytes of a chaining value are its five words, each most significant byte first. -/
def Obligations.DigestBytesBigEndian : Prop :=
  ∀ (h : Chain) (k j : Nat), k < 5 → j < 4 →
    (digestBytes h).length = 20 ∧
    ((digestBytes h).getD (4 * k + j) 0).toNat =
      (([h.h0, h.h1, h.h2, h.h3, h.h4].getD k 0).toNat / 2 ^ (8 * (3 - j))) % 256

/-- R163, R157, R160, R161: SHA1.INIT followed by one SHA1.BLOCK over each 64-byte block of the padded message, in order,
with the chaining words kept between them, leaves SHA1 of the message in H0 to H4, and such a chain of commands exists.
The spec marks this sentence of R163 as derived from R157, R160 and R161. -/
def Obligations.StreamedBlocksGiveDigest : Prop :=
  ∀ (m : List Byte) (blocks : List (List Byte)) (s t : State) (h : Chain),
    (∀ b ∈ blocks, b.length = 64) → blocks.flatten = sha1Pad m → exec .sha1Init s = .next t →
    (Streams t.chain blocks h ↔ h = sha1 m)

/-! ### HMAC -/

/-- R180: the padded key: 64 bytes, the key itself and then zeros where it has at most 64 bytes, its digest and then zeros
where it has more. -/
def Obligations.HmacKeyBlockShape : Prop :=
  ∀ key : List Byte, (hmacKeyBlock key).length = 64 ∧
    (key.length ≤ 64 → ∀ j, j < 64 →
      (hmacKeyBlock key).getD j 0 = if j < key.length then key.getD j 0 else 0x00) ∧
    (64 < key.length → ∀ j, j < 64 →
      (hmacKeyBlock key).getD j 0 = if j < 20 then (digestBytes (sha1 key)).getD j 0 else 0x00)

/-- R181, R182: with ipad and opad the padded key XORed byte by byte with 0x36 and 0x5c, the MAC's words are
SHA1(opad ∥ DigestBytes(SHA1(ipad ∥ M))); the inner message pads to at least two blocks and the outer one has 84 bytes and
pads to two (the block counts are the spec's own inference, marked derived in R182). -/
def Obligations.HmacConstruction : Prop :=
  ∀ (key message ipad opad : List Byte), ipad.length = 64 → opad.length = 64 →
    (∀ j, j < 64 → ipad.getD j 0 = (hmacKeyBlock key).getD j 0 ^^^ 0x36) →
    (∀ j, j < 64 → opad.getD j 0 = (hmacKeyBlock key).getD j 0 ^^^ 0x5c) →
    hmacSha1 key message = sha1 (opad ++ digestBytes (sha1 (ipad ++ message))) ∧
    2 * 64 ≤ (sha1Pad (ipad ++ message)).length ∧
    (opad ++ digestBytes (sha1 (ipad ++ message))).length = 84 ∧
    (sha1Pad (opad ++ digestBytes (sha1 (ipad ++ message)))).length = 2 * 64

/-- R180, R182: zero bytes appended to a key that stays within 64 bytes do not change the MAC, so the empty key and 64 zero
bytes give the same MAC. -/
def Obligations.HmacIgnoresTrailingZeros : Prop :=
  ∀ (key message : List Byte) (n : Nat), key.length + n ≤ 64 →
    hmacSha1 (key ++ List.replicate n 0x00) message = hmacSha1 key message

/-! ### Base32 -/

/-- R120: the class of every byte and the value of every significant one. -/
def Obligations.Base32Classes : Prop :=
  ∀ c : Byte,
    (c.toNat = 0x3D → b32Class c = .padding) ∧
    (0x41 ≤ c.toNat → c.toNat ≤ 0x5A → b32Class c = .value (BitVec.ofNat 5 (c.toNat - 0x41))) ∧
    (0x61 ≤ c.toNat → c.toNat ≤ 0x7A → b32Class c = .value (BitVec.ofNat 5 (c.toNat - 0x61))) ∧
    (0x32 ≤ c.toNat → c.toNat ≤ 0x37 → b32Class c = .value (BitVec.ofNat 5 (c.toNat - 0x32 + 26))) ∧
    (¬(c.toNat = 0x3D ∨ (0x41 ≤ c.toNat ∧ c.toNat ≤ 0x5A) ∨ (0x61 ≤ c.toNat ∧ c.toNat ≤ 0x7A) ∨
      (0x32 ≤ c.toNat ∧ c.toNat ≤ 0x37)) → b32Class c = .invalid)

/-- R122: an input is rejected at index i exactly where byte i is invalid and no earlier byte is, `=` bytes counted; space,
tab, CR, LF, the digits 0, 1, 8, 9 and every byte from 0x80 on are invalid. -/
def Obligations.Base32FirstInvalid : Prop :=
  (∀ (secret : List Byte) (i : Nat), b32Values 0 secret = .error i ↔
    i < secret.length ∧ b32Class (secret.getD i 0) = .invalid ∧
      ∀ j, j < i → b32Class (secret.getD j 0) ≠ .invalid) ∧
  (∀ c ∈ ([0x20, 0x09, 0x0D, 0x0A, 0x30, 0x31, 0x38, 0x39] : List Byte), b32Class c = .invalid) ∧
  (∀ c : Byte, 0x80 ≤ c.toNat → b32Class c = .invalid)

/-- R121: an input without an invalid byte gives the values of its significant characters in order, every `=` stripped
wherever it stands, and no other input gives values. -/
def Obligations.Base32StripsPadding : Prop :=
  ∀ (secret : List Byte) (vs : List (BitVec 5)), b32Values 0 secret = .ok vs ↔
    (∀ c ∈ secret, b32Class c ≠ .invalid) ∧
      vs = secret.filterMap fun c =>
        match b32Class c with
        | .value v => some v
        | .padding => none
        | .invalid => none

/-- R123, R125: the values are cut into blocks of 8 and a shorter last one, and byte t of a block of k values is bits
5k - 8(t+1) and up of the number whose base-32 digits are the values, most significant first. -/
def Obligations.Base32Packing : Prop :=
  (∀ a b : List (BitVec 5), a.length = 8 → b32Bytes (a ++ b) = b32Block a ++ b32Bytes b) ∧
  (∀ b : List (BitVec 5), b.length < 8 → b32Bytes b = b32Block b) ∧
  (∀ vs : List (BitVec 5), (b32Block vs).length = 5 * vs.length / 8 ∧
    ∀ t, t < 5 * vs.length / 8 → ((b32Block vs).getD t 0).toNat =
      ((List.range vs.length).map fun j => (vs.getD j 0).toNat * 2 ^ (5 * (vs.length - 1 - j))).sum
        / 2 ^ (5 * vs.length - 8 * (t + 1)) % 256)

/-- R120, R128: a secret and its lower-case form give the same values, or the same first invalid byte. -/
def Obligations.Base32CaseInsensitive : Prop :=
  ∀ (secret : List Byte) (i : Nat), b32Values i (secret.map lowerCase) = b32Values i secret

/-- R127: the decoder undoes the canonical Base32 encoding: of the canonical encoding of any bytes B that is readable and in
bounds, B32.DEC with room for B at DST completes, writes B and sets OUT_LEN to its length. The spec marks R127 as derived
from R120 to R126. -/
def Obligations.Base32RoundTrip : Prop :=
  ∀ (s : State) (bytes : List Byte), s.args.src.toNat + s.args.len.toNat ≤ 4096 →
    s.buf.readBytes s.args.src.toNat s.args.len.toNat = .ok (b32Encode bytes) →
    s.args.dst.toNat + bytes.length ≤ 4096 →
    ∃ t, exec .b32Dec s = .next t ∧ t.status.done = true ∧ t.outLen.toNat = bytes.length ∧
      t.buf.readBytes s.args.dst.toNat bytes.length = .ok bytes

/-! ### The bus -/

/-- R26, R27: ID and VERSION read as their constants in every state, and a host write leaves the machine as it was but for
the host's record. -/
def Obligations.IdentificationIsFixed : Prop :=
  (∀ s : State, readReg .ID s = 0x53484131 ∧ readReg .VERSION s = 0x00000001 ∧
    (readReg .VERSION s).toNat / 2 ^ 16 = 0 ∧ (readReg .VERSION s).toNat % 2 ^ 16 = 1) ∧
  (∀ (s : State) (w : Word), writeReg .ID w s = s ∧ writeReg .VERSION w s = s)

/-- R25: a read of any mapped register is answered OKAY with its value and has no side effect; a write to a register marked
RO is answered OKAY and has no effect. -/
def Obligations.ReadsAndReadOnlyWritesHaveNoEffect : Prop :=
  (∀ (s : State) (r : Reg) (w : Word), s.rst = false →
    ∃ t, transaction (regAccess .read r w) s = .next t ∧ SameEngine s t ∧ AnsweredOkay .read (readReg r s) s t) ∧
  (∀ (s : State) (r : Reg) (w : Word), s.rst = false → r ∈ readOnlyRegs →
    ∃ t, transaction (regAccess .write r w) s = .next t ∧ SameEngine s t ∧ AnsweredOkay .write 0 s t)

/-- R28, R29, R31, R38: STATUS, CTRL, ERR_CAUSE and T_OFF read as their fields in their places, every other bit zero. -/
def Obligations.FieldRegistersReadAsFields : Prop :=
  ∀ s : State,
    (readReg .STATUS s).toNat =
      s.status.busy.toNat + 2 * s.status.done.toNat + 4 * s.status.err.toNat + 8 * s.status.ovr.toNat ∧
    (readReg .CTRL s).toNat = s.ctrl.ieDone.toNat + 2 * s.ctrl.ieErr.toNat ∧
    (readReg .ERR_CAUSE s).toNat = s.errCause.toNat ∧ (readReg .T_OFF s).toNat = s.trunc.tOff.toNat

/-- R61, R62, R63: an access of another size, misaligned, of one byte to a register, or to an unmapped offset is answered
ERROR, with read data 0 on a read; the engine is unchanged and a bus error is recorded; every other access is served
without one. -/
def Obligations.ErrorResponsesChangeNothing : Prop :=
  ∀ (s : State) (r : Request), s.rst = false →
    (¬Served r →
      ∃ t v, transaction r s = .next t ∧ SameEngine s t ∧ t.host.agenda = s.host.agenda ∧
        t.host.position = s.host.position + 1 ∧ t.host.response = some { resp := .error, rdata := v } ∧
        (r.kind = .read → v = 0) ∧
        t.host.busErrors = { addr := r.addr, size := r.size, kind := r.kind } :: s.host.busErrors) ∧
    (Served r → ∀ t, transaction r s = .next t → t.host.busErrors = s.host.busErrors ∧
      ∃ v, t.host.response = some { resp := .okay, rdata := v })

/-- R64, R41, R107: a 1-byte read of BUF returns the byte, an aligned 4-byte read returns the four bytes with the lowest in
bits 7:0, neither has a side effect, and a read that covers an unwritten byte is the fault UninitRead at the lowest one
(that it names the lowest is the model's reading, assumption log 2). -/
def Obligations.BufReadsAreLittleEndian : Prop :=
  (∀ (s : State) (i : Nat) (b : Byte) (w : Word), s.rst = false → i < 4096 → s.buf.read i = some b →
    ∃ t v, transaction (bufAccess .read i 1 w) s = .next t ∧ SameEngine s t ∧ AnsweredOkay .read v s t ∧
      v.toNat = b.toNat) ∧
  (∀ (s : State) (i : Nat) (b0 b1 b2 b3 : Byte) (w : Word), s.rst = false → i % 4 = 0 → i + 4 ≤ 4096 →
    s.buf.read i = some b0 → s.buf.read (i + 1) = some b1 → s.buf.read (i + 2) = some b2 →
    s.buf.read (i + 3) = some b3 →
    ∃ t v, transaction (bufAccess .read i 4 w) s = .next t ∧ SameEngine s t ∧ AnsweredOkay .read v s t ∧
      v.toNat = b0.toNat + 2 ^ 8 * b1.toNat + 2 ^ 16 * b2.toNat + 2 ^ 24 * b3.toNat) ∧
  (∀ (s : State) (i n j : Nat) (w : Word), s.rst = false → (n = 1 ∨ (n = 4 ∧ i % 4 = 0)) → i + n ≤ 4096 →
    i ≤ j → j < i + n → s.buf.read j = none → (∀ k, i ≤ k → k < j → s.buf.read k ≠ none) →
    transaction (bufAccess .read i n w) s = .fault (.uninitRead j))

/-- R61, R64, R67: while no command is pending, a 1-byte or aligned 4-byte write to BUF is answered OKAY and stores byte k of
the data at index i + k, every other byte reads as before, and nothing else of the engine changes. -/
def Obligations.BufWritesStoreBytes : Prop :=
  ∀ (s : State) (i n : Nat) (w : Word), s.rst = false → s.status.busy = false →
    (n = 1 ∨ (n = 4 ∧ i % 4 = 0)) → i + n ≤ 4096 →
    ∃ t, transaction (bufAccess .write i n w) s = .next t ∧ AnsweredOkay .write 0 s t ∧
      t = { s with buf := t.buf, host := t.host, sched := t.sched } ∧
      (∀ k, k < n → t.buf.read (i + k) = some (BitVec.ofNat 8 (w.toNat / 2 ^ (8 * k)))) ∧
      ∀ a, (a < i ∨ i + n ≤ a) → t.buf.read a = s.buf.read a

/-- R33: while a command is pending, a host write to CMD, an argument register, H0 to H4 or BUF is dropped: it is answered
OKAY, its target and everything else of the engine is unchanged, and OVR is set. A write to CTRL, to STATUS or to an RO
register is not dropped: it is answered OKAY and never sets OVR. -/
def Obligations.PendingWritesAreDropped : Prop :=
  (∀ (s : State) (r : Request), s.rst = false → s.status.busy = true → r.kind = .write →
    ((∃ reg, (reg = Reg.CMD ∨ reg ∈ operandRegs) ∧ r.size = 4 ∧ r.addr.toNat = regOffset reg) ∨
      (0x1000 ≤ r.addr.toNat ∧ (r.size = 1 ∨ (r.size = 4 ∧ r.addr.toNat % 4 = 0)))) →
    ∃ t, transaction r s = .next t ∧ AnsweredOkay .write 0 s t ∧
      t = { s with
            status := { busy := true, done := s.status.done, err := s.status.err, ovr := true }
            host := t.host, sched := t.sched }) ∧
  (∀ (s : State) (reg : Reg) (w : Word), s.rst = false → s.status.busy = true →
    (reg = .CTRL ∨ reg = .STATUS ∨ reg ∈ readOnlyRegs) →
    ∃ t, transaction (regAccess .write reg w) s = .next t ∧ AnsweredOkay .write 0 s t ∧
      (t.status.ovr = true → s.status.ovr = true))

/-- R29: a host write to STATUS, pending command or not, clears each of DONE, ERR and OVR whose data bit is 1, leaves the
others and BUSY as they were, and changes nothing else. -/
def Obligations.StatusWriteClearsOnes : Prop :=
  ∀ (s : State) (w : Word), s.rst = false →
    ∃ t, transaction (regAccess .write .STATUS w) s = .next t ∧ AnsweredOkay .write 0 s t ∧
      t = { s with
            status := { busy := s.status.busy, done := s.status.done && !w.getLsbD 1,
                        err := s.status.err && !w.getLsbD 2, ovr := s.status.ovr && !w.getLsbD 3 }
            host := t.host, sched := t.sched }

/-- R28, R232: a host write to CTRL, pending command or not: with data bit 31 = 0 it sets IE_DONE and IE_ERR to data bits 0
and 1 and nothing else; with data bit 31 = 1 it is the soft reset: every register takes its reset value, a pending command is
aborted, BUF is unchanged, `irq` is 0 and CTRL reads 0. -/
def Obligations.CtrlWriteAndSoftReset : Prop :=
  ∀ (s : State) (w : Word), s.rst = false →
    ∃ t, transaction (regAccess .write .CTRL w) s = .next t ∧ AnsweredOkay .write 0 s t ∧
      (w.getLsbD 31 = false →
        t = { s with
              ctrl := { ieDone := w.getLsbD 0, ieErr := w.getLsbD 1 }, host := t.host, sched := t.sched }) ∧
      (w.getLsbD 31 = true →
        t = { State.reset with buf := s.buf, host := t.host, sched := t.sched } ∧ t.irq = false ∧
        readReg .CTRL t = 0)

/-- R101: a host write of any word to CMD while no command is pending is an issue, answered OKAY: CMD holds the word, BUSY
is 1, DONE, ERR, ERR_CAUSE and ERR_INFO are 0, and OVR, every other register and BUF are unchanged; an ILLEGAL word then
fails at its completion; a write to CMD while a command is pending is dropped and sets OVR. -/
def Obligations.CmdWriteIssues : Prop :=
  (∀ (s : State) (w : Word), s.rst = false → s.status.busy = false →
    ∃ t, transaction (regAccess .write .CMD w) s = .next t ∧ AnsweredOkay .write 0 s t ∧
      t = { s with
            cmd := w, errCause := 0, errInfo := 0
            status := { busy := true, done := false, err := false, ovr := s.status.ovr }
            host := t.host, sched := t.sched } ∧
      ∀ e, decode w = .error e → complete t = .next (failedWith 0x01 w t)) ∧
  (∀ (s : State) (w : Word), s.rst = false → s.status.busy = true →
    ∃ t, transaction (regAccess .write .CMD w) s = .next t ∧ AnsweredOkay .write 0 s t ∧
      t = { s with
            status := { busy := true, done := s.status.done, err := s.status.err, ovr := true }
            host := t.host, sched := t.sched })

/-- R35, R39: while no command is pending, a host write to an argument register or to one of H0 to H4 is answered OKAY, the
register reads back the whole word, every other register reads as before, and BUF is unchanged. -/
def Obligations.OperandRegistersReadBack : Prop :=
  ∀ (s : State) (r : Reg) (w : Word), s.rst = false → s.status.busy = false → r ∈ operandRegs →
    ∃ t, transaction (regAccess .write r w) s = .next t ∧ AnsweredOkay .write 0 s t ∧ readReg r t = w ∧
      (∀ r', r' ≠ r → readReg r' t = readReg r' s) ∧ t.buf = s.buf ∧ t.rst = s.rst

/-- R230: when `rst` is asserted, at any point, and when it is released, the engine is in its hard-reset state, `irq` is 0
and no BUF byte is written; a release of an `rst` that is not asserted does nothing (the model's choice, assumption log
13). -/
def Obligations.RstHoldsHardReset : Prop :=
  ∀ (s : State) (rest : List HostAction),
    (∃ t, perform .rstAssert rest s = .next t ∧ t.rst = true ∧ InHardReset t ∧ t.irq = false ∧
      t.host = { s.host with agenda := rest }) ∧
    (s.rst = true → ∃ t, perform .rstRelease rest s = .next t ∧ t.rst = false ∧ InHardReset t ∧ t.irq = false ∧
      t.host = { s.host with agenda := rest }) ∧
    (s.rst = false → perform .rstRelease rest s = .next { s with host := { s.host with agenda := rest } })

/-- R230, R63: a host transaction while `rst` is asserted changes nothing of the engine and is recorded as a bus error. What
response it sees is free (the model's choice, assumption log 5), and the statement says nothing of it. -/
def Obligations.TransactionsInResetChangeNothing : Prop :=
  ∀ (s : State) (r : Request), s.rst = true →
    ∃ t, transaction r s = .next t ∧ SameEngine s t ∧ t.host.agenda = s.host.agenda ∧
      t.host.position = s.host.position + 1 ∧
      t.host.busErrors = { addr := r.addr, size := r.size, kind := r.kind } :: s.host.busErrors

/-- R206, R207: the level of `irq` in every state, by the bits that a read of STATUS and of CTRL returns: STATUS.DONE with
IE_DONE, or STATUS.ERR with IE_ERR. OVR does not interrupt. -/
def Obligations.IrqIsTheLevel : Prop :=
  ∀ s : State, s.irq =
    (((readReg .STATUS s).getLsbD 1 && (readReg .CTRL s).getLsbD 0) ||
      ((readReg .STATUS s).getLsbD 2 && (readReg .CTRL s).getLsbD 1))

/-- R66: a 4-byte bus read of a digest word in BUF returns that word with its bytes reversed; after SHA1.DIGEST of the empty
message with DST = 0, a 4-byte read at 0x1000 returns 0xEEA339DA while H0 reads 0xDA39A3EE. The spec marks R66 as derived
from R64 and R65. -/
def Obligations.DigestWordsReadSwapped : Prop :=
  (∃ u t, exec .sha1Digest State.reset = .next u ∧ readReg .H0 u = 0xDA39A3EE ∧
    transaction (bufAccess .read 0 4 0) u = .next t ∧
    t.host.response = some { resp := .okay, rdata := 0xEEA339DA }) ∧
  ∀ (s : State) (base k : Nat) (h : Chain) (w : Word), s.rst = false → base % 4 = 0 → base + 20 ≤ 4096 → k < 5 →
    s.buf.readBytes base 20 = .ok (digestBytes h) →
    ∃ t v, transaction (bufAccess .read (base + 4 * k) 4 w) s = .next t ∧ AnsweredOkay .read v s t ∧
      v = ([h.h0, h.h1, h.h2, h.h3, h.h4].getD k 0).extractLsb' 0 8
          ++ ([h.h0, h.h1, h.h2, h.h3, h.h4].getD k 0).extractLsb' 8 8
          ++ ([h.h0, h.h1, h.h2, h.h3, h.h4].getD k 0).extractLsb' 16 8
          ++ ([h.h0, h.h1, h.h2, h.h3, h.h4].getD k 0).extractLsb' 24 8

/-- R93: the expansions of the pseudo-instructions: `set`, `cmd`, `wait`, `clr`, `run`, and the loads: of a text by the ASCII
code of each of its characters, of a hex string byte by byte, and in groups of four bytes with the first byte of a group in
bits 7:0. Their form as lists is the model's (assumption log 14). -/
def Obligations.PseudoInstructionsExpand : Prop :=
  (∀ (r : Reg) (w : Word), assembleLine (.set r w) = some [.bus (regAccess .write r w)]) ∧
  (∀ w : Word, assembleLine (.cmd w) = some [.bus (regAccess .write .CMD w)] ∧
    assembleLine (.run w) = some [.bus (regAccess .write .CMD w), .wait]) ∧
  assembleLine .wait = some [.wait] ∧ assembleLine .clr = some [.bus (regAccess .write .STATUS 0x0000000E)] ∧
  (∀ (i : Nat) (text : String), (∀ c ∈ text.toList, c.toNat < 128) → i + text.toList.length ≤ 4096 →
    ∃ as, assembleLine (.ldbufText i text) = some as ∧ as.length = text.toList.length ∧
      ∀ (k : Nat) (c : Char), text.toList[k]? = some c → ∃ w : Word,
        as[k]? = some (.bus (bufAccess .write (i + k) 1 w)) ∧ w.toNat = c.toNat) ∧
  (∀ (i : Nat) (bs : List Byte), i + bs.length ≤ 4096 → ∃ as, assembleLine (.ldbuf i bs) = some as ∧
    as.length = bs.length ∧ ∀ k, k < bs.length →
      as[k]? = some (.bus (bufAccess .write (i + k) 1 ((bs.getD k 0).setWidth 32)))) ∧
  (∀ (i : Nat) (bs : List Byte), i % 4 = 0 → bs.length % 4 = 0 → i + bs.length ≤ 4096 →
    ∃ as, assembleLine (.ldbuf32 i bs) = some as ∧ as.length = bs.length / 4 ∧
      ∀ j, j < bs.length / 4 → ∃ w : Word, as[j]? = some (.bus (bufAccess .write (i + 4 * j) 4 w)) ∧
        w.toNat = (bs.getD (4 * j) 0).toNat + 2 ^ 8 * (bs.getD (4 * j + 1) 0).toNat
          + 2 ^ 16 * (bs.getD (4 * j + 2) 0).toNat + 2 ^ 24 * (bs.getD (4 * j + 3) 0).toNat)
end

