-- ==== Sys2Proof/Laws/Memory.lean ====
section
/-!
SUPPORT. The laws of BUF: a read after a write, what a write leaves alone, and that every operation keeps the canonical
form and the bounds of BUF.
-/

namespace Sys2Proof.Machine

/-! ### One byte -/

theorem Memory.read_write_same (m : Memory) (a : Nat) (b : Byte) : (m.write a b).read a = some b := by
  induction m with
  | nil => simp [Memory.write, Memory.read]
  | cons c rest ih =>
    obtain ⟨k, v⟩ := c
    simp only [Memory.write]
    split
    · simp [Memory.read]
    · split
      · simp [Memory.read]
      · have hk : k ≠ a := by omega
        simp [Memory.read, hk, ih]

theorem Memory.read_write_other (m : Memory) {a a' : Nat} (b : Byte) (h : a' ≠ a) :
    (m.write a b).read a' = m.read a' := by
  induction m with
  | nil => simp [Memory.write, Memory.read, Ne.symm h]
  | cons c rest ih =>
    obtain ⟨k, v⟩ := c
    simp only [Memory.write]
    split
    · simp [Memory.read, Ne.symm h]
    · split
      · rename_i hk
        subst hk
        simp [Memory.read, Ne.symm h]
      · simp [Memory.read, ih]

theorem Memory.risesAbove_write {m : Memory} {k a : Nat} {b : Byte} (hk : k < a)
    (h : Memory.risesAbove k m = true) : Memory.risesAbove k (m.write a b) = true := by
  induction m generalizing k with
  | nil => simp [Memory.write, Memory.risesAbove, hk]
  | cons c rest ih =>
    obtain ⟨j, v⟩ := c
    simp only [Memory.risesAbove, Bool.and_eq_true, decide_eq_true_eq] at h
    simp only [Memory.write]
    split
    · simp_all [Memory.risesAbove]
    · split
      · simp_all [Memory.risesAbove]
      · have hj : j < a := by omega
        simp [Memory.risesAbove, h.1, ih hj h.2]

theorem Memory.wf_write {m : Memory} {a : Nat} {b : Byte} (h : m.wf = true) : (m.write a b).wf = true := by
  cases m with
  | nil => simp [Memory.write, Memory.wf, Memory.risesAbove]
  | cons c rest =>
    obtain ⟨k, v⟩ := c
    simp only [Memory.wf] at h
    simp only [Memory.write]
    split
    · simp_all [Memory.wf, Memory.risesAbove]
    · split
      · simp_all [Memory.wf]
      · have hk : k < a := by omega
        simp [Memory.wf, Memory.risesAbove_write hk h]

theorem Memory.inside_cons {c : Host.Cell} {m : Memory} :
    Memory.inside (c :: m) = true ↔ c.1 < Config.bufBytes ∧ m.inside = true := by
  simp only [Memory.inside, List.all_cons, Bool.and_eq_true, decide_eq_true_eq]

theorem Memory.inside_write {m : Memory} {a : Nat} {b : Byte} (ha : a < Config.bufBytes) (h : m.inside = true) :
    (m.write a b).inside = true := by
  induction m with
  | nil => exact Memory.inside_cons.mpr ⟨ha, rfl⟩
  | cons c rest ih =>
    obtain ⟨k, v⟩ := c
    obtain ⟨hk, hr⟩ := Memory.inside_cons.mp h
    simp only [Memory.write]
    split
    · exact Memory.inside_cons.mpr ⟨ha, h⟩
    · split
      · exact Memory.inside_cons.mpr ⟨ha, hr⟩
      · exact Memory.inside_cons.mpr ⟨hk, ih hr⟩

/-! ### Byte sequences -/

@[simp] theorem Memory.writeBytes_nil (m : Memory) (a : Nat) : m.writeBytes a [] = m := rfl

theorem Memory.wf_writeBytes {m : Memory} {a : Nat} {bs : List Byte} (h : m.wf = true) :
    (m.writeBytes a bs).wf = true := by
  induction bs generalizing m a with
  | nil => exact h
  | cons b bs ih => exact ih (Memory.wf_write h)

theorem Memory.inside_writeBytes {m : Memory} {a : Nat} {bs : List Byte} (ha : a + bs.length ≤ Config.bufBytes)
    (h : m.inside = true) : (m.writeBytes a bs).inside = true := by
  induction bs generalizing m a with
  | nil => exact h
  | cons b bs ih =>
    simp only [List.length_cons] at ha
    exact ih (by omega) (Memory.inside_write (by omega) h)

theorem Memory.read_writeBytes_outside {m : Memory} {a i : Nat} {bs : List Byte} (h : i < a ∨ a + bs.length ≤ i) :
    (m.writeBytes a bs).read i = m.read i := by
  induction bs generalizing m a with
  | nil => rfl
  | cons b bs ih =>
    simp only [List.length_cons] at h
    simp only [Memory.writeBytes]
    rw [ih (by omega), Memory.read_write_other m b (by omega)]

theorem Memory.read_writeBytes_inside {m : Memory} {a j : Nat} {bs : List Byte} (h : j < bs.length) :
    (m.writeBytes a bs).read (a + j) = some bs[j] := by
  induction bs generalizing m a j with
  | nil => simp at h
  | cons b bs ih =>
    simp only [Memory.writeBytes]
    cases j with
    | zero =>
      rw [Memory.read_writeBytes_outside (by omega), Nat.add_zero, Memory.read_write_same]
      rfl
    | succ j =>
      have := ih (m := m.write a b) (a := a + 1) (j := j) (by simpa using h)
      rw [show a + (j + 1) = a + 1 + j by omega, this]
      rfl

/-- `MemRead` answers a byte sequence exactly where it has the right length and each byte is the one read there. -/
theorem Memory.readBytes_ok_iff {m : Memory} {a n : Nat} {bs : List Byte} :
    m.readBytes a n = .ok bs ↔ bs.length = n ∧ ∀ j (h : j < bs.length), m.read (a + j) = some bs[j] := by
  induction n generalizing a bs with
  | zero =>
    simp only [Memory.readBytes]
    constructor
    · intro h
      cases h
      simp
    · rintro ⟨h, -⟩
      rw [List.length_eq_zero_iff] at h
      rw [h]
  | succ n ih =>
    simp only [Memory.readBytes]
    constructor
    · intro h
      split at h
      · cases h
      · rename_i b hb
        split at h
        · cases h
        · rename_i cs hcs
          cases h
          obtain ⟨hl, hr⟩ := ih.mp hcs
          refine ⟨by simp [hl], ?_⟩
          intro j hj
          cases j with
          | zero => simpa using hb
          | succ j =>
            have := hr j (by simpa using hj)
            rw [show a + (j + 1) = a + 1 + j by omega]
            simpa using this
    · rintro ⟨hl, hr⟩
      cases bs with
      | nil => simp at hl
      | cons b cs =>
        have hb := hr 0 (by simp)
        simp only [Nat.add_zero, List.getElem_cons_zero] at hb
        have hcs : m.readBytes (a + 1) n = .ok cs := by
          refine ih.mpr ⟨by simpa using hl, fun j hj => ?_⟩
          have := hr (j + 1) (by simpa using hj)
          rw [show a + 1 + j = a + (j + 1) by omega]
          simpa using this
        simp [hb, hcs]

theorem Memory.length_of_readBytes {m : Memory} {a n : Nat} {bs : List Byte} (h : m.readBytes a n = .ok bs) :
    bs.length = n := (Memory.readBytes_ok_iff.mp h).1

/-- `MemRead` fails at the lowest unwritten index of the region (R41). -/
theorem Memory.readBytes_error_iff {m : Memory} {a n i : Nat} :
    m.readBytes a n = .error i ↔
      a ≤ i ∧ i < a + n ∧ m.read i = none ∧ ∀ j, a ≤ j → j < i → (m.read j).isSome = true := by
  induction n generalizing a with
  | zero =>
    simp only [Memory.readBytes]
    constructor
    · intro h
      cases h
    · rintro ⟨h1, h2, -⟩
      omega
  | succ n ih =>
    simp only [Memory.readBytes]
    constructor
    · intro h
      split at h
      · rename_i hn
        cases h
        exact ⟨Nat.le_refl _, by omega, hn, fun j h1 h2 => by omega⟩
      · rename_i b hb
        split at h
        · rename_i k hk
          cases h
          obtain ⟨h1, h2, h3, h4⟩ := ih.mp hk
          refine ⟨by omega, by omega, h3, fun j hj1 hj2 => ?_⟩
          by_cases hja : j = a
          · subst hja
            simp [hb]
          · exact h4 j (by omega) hj2
        · cases h
    · rintro ⟨h1, h2, h3, h4⟩
      by_cases hia : i = a
      · subst hia
        simp [h3]
      · have ha := h4 a (Nat.le_refl _) (by omega)
        obtain ⟨b, hb⟩ := Option.isSome_iff_exists.mp ha
        have := ih.mpr ⟨(by omega : a + 1 ≤ i), by omega, h3, fun j hj1 hj2 => h4 j (by omega) hj2⟩
        simp [hb, this]

/-- A region just written reads back as what was written. -/
theorem Memory.readBytes_writeBytes (m : Memory) (a : Nat) (bs : List Byte) :
    (m.writeBytes a bs).readBytes a bs.length = .ok bs :=
  Memory.readBytes_ok_iff.mpr ⟨rfl, fun _ h => Memory.read_writeBytes_inside h⟩

end Sys2Proof.Machine
end

