-- ==== Sys2Proof/Laws/State.lean ====
section
/-!
SUPPORT. What each named operation does to each field of the state: one lemma per field per operation, so that no proof
unfolds a record update.
-/

namespace Sys2Proof.Machine

/-! ### storeBytes -/

@[simp] theorem storeBytes_rst (base : Word) (bs : List Byte) (s : State) :
    (storeBytes base bs s).rst = s.rst := rfl
@[simp] theorem storeBytes_ctrl (base : Word) (bs : List Byte) (s : State) :
    (storeBytes base bs s).ctrl = s.ctrl := rfl
@[simp] theorem storeBytes_status (base : Word) (bs : List Byte) (s : State) :
    (storeBytes base bs s).status = s.status := rfl
@[simp] theorem storeBytes_cmd (base : Word) (bs : List Byte) (s : State) :
    (storeBytes base bs s).cmd = s.cmd := rfl
@[simp] theorem storeBytes_errCause (base : Word) (bs : List Byte) (s : State) :
    (storeBytes base bs s).errCause = s.errCause := rfl
@[simp] theorem storeBytes_errInfo (base : Word) (bs : List Byte) (s : State) :
    (storeBytes base bs s).errInfo = s.errInfo := rfl
@[simp] theorem storeBytes_args (base : Word) (bs : List Byte) (s : State) :
    (storeBytes base bs s).args = s.args := rfl
@[simp] theorem storeBytes_outLen (base : Word) (bs : List Byte) (s : State) :
    (storeBytes base bs s).outLen = s.outLen := rfl
@[simp] theorem storeBytes_trunc (base : Word) (bs : List Byte) (s : State) :
    (storeBytes base bs s).trunc = s.trunc := rfl
@[simp] theorem storeBytes_chain (base : Word) (bs : List Byte) (s : State) :
    (storeBytes base bs s).chain = s.chain := rfl
@[simp] theorem storeBytes_buf (base : Word) (bs : List Byte) (s : State) :
    (storeBytes base bs s).buf = s.buf.writeBytes base.toNat bs := rfl
@[simp] theorem storeBytes_host (base : Word) (bs : List Byte) (s : State) :
    (storeBytes base bs s).host = s.host := rfl
@[simp] theorem storeBytes_sched (base : Word) (bs : List Byte) (s : State) :
    (storeBytes base bs s).sched = s.sched := rfl

/-! ### setChain -/

@[simp] theorem setChain_rst (h : Chain) (s : State) :
    (setChain h s).rst = s.rst := rfl
@[simp] theorem setChain_ctrl (h : Chain) (s : State) :
    (setChain h s).ctrl = s.ctrl := rfl
@[simp] theorem setChain_status (h : Chain) (s : State) :
    (setChain h s).status = s.status := rfl
@[simp] theorem setChain_cmd (h : Chain) (s : State) :
    (setChain h s).cmd = s.cmd := rfl
@[simp] theorem setChain_errCause (h : Chain) (s : State) :
    (setChain h s).errCause = s.errCause := rfl
@[simp] theorem setChain_errInfo (h : Chain) (s : State) :
    (setChain h s).errInfo = s.errInfo := rfl
@[simp] theorem setChain_args (h : Chain) (s : State) :
    (setChain h s).args = s.args := rfl
@[simp] theorem setChain_outLen (h : Chain) (s : State) :
    (setChain h s).outLen = s.outLen := rfl
@[simp] theorem setChain_trunc (h : Chain) (s : State) :
    (setChain h s).trunc = s.trunc := rfl
@[simp] theorem setChain_chain (h : Chain) (s : State) :
    (setChain h s).chain = h := rfl
@[simp] theorem setChain_buf (h : Chain) (s : State) :
    (setChain h s).buf = s.buf := rfl
@[simp] theorem setChain_host (h : Chain) (s : State) :
    (setChain h s).host = s.host := rfl
@[simp] theorem setChain_sched (h : Chain) (s : State) :
    (setChain h s).sched = s.sched := rfl

/-! ### setOutLen -/

@[simp] theorem setOutLen_rst (n : Nat) (s : State) :
    (setOutLen n s).rst = s.rst := rfl
@[simp] theorem setOutLen_ctrl (n : Nat) (s : State) :
    (setOutLen n s).ctrl = s.ctrl := rfl
@[simp] theorem setOutLen_status (n : Nat) (s : State) :
    (setOutLen n s).status = s.status := rfl
@[simp] theorem setOutLen_cmd (n : Nat) (s : State) :
    (setOutLen n s).cmd = s.cmd := rfl
@[simp] theorem setOutLen_errCause (n : Nat) (s : State) :
    (setOutLen n s).errCause = s.errCause := rfl
@[simp] theorem setOutLen_errInfo (n : Nat) (s : State) :
    (setOutLen n s).errInfo = s.errInfo := rfl
@[simp] theorem setOutLen_args (n : Nat) (s : State) :
    (setOutLen n s).args = s.args := rfl
@[simp] theorem setOutLen_outLen (n : Nat) (s : State) :
    (setOutLen n s).outLen = BitVec.ofNat 32 n := rfl
@[simp] theorem setOutLen_trunc (n : Nat) (s : State) :
    (setOutLen n s).trunc = s.trunc := rfl
@[simp] theorem setOutLen_chain (n : Nat) (s : State) :
    (setOutLen n s).chain = s.chain := rfl
@[simp] theorem setOutLen_buf (n : Nat) (s : State) :
    (setOutLen n s).buf = s.buf := rfl
@[simp] theorem setOutLen_host (n : Nat) (s : State) :
    (setOutLen n s).host = s.host := rfl
@[simp] theorem setOutLen_sched (n : Nat) (s : State) :
    (setOutLen n s).sched = s.sched := rfl

/-! ### setTrunc -/

@[simp] theorem setTrunc_rst (t : Trunc) (s : State) :
    (setTrunc t s).rst = s.rst := rfl
@[simp] theorem setTrunc_ctrl (t : Trunc) (s : State) :
    (setTrunc t s).ctrl = s.ctrl := rfl
@[simp] theorem setTrunc_status (t : Trunc) (s : State) :
    (setTrunc t s).status = s.status := rfl
@[simp] theorem setTrunc_cmd (t : Trunc) (s : State) :
    (setTrunc t s).cmd = s.cmd := rfl
@[simp] theorem setTrunc_errCause (t : Trunc) (s : State) :
    (setTrunc t s).errCause = s.errCause := rfl
@[simp] theorem setTrunc_errInfo (t : Trunc) (s : State) :
    (setTrunc t s).errInfo = s.errInfo := rfl
@[simp] theorem setTrunc_args (t : Trunc) (s : State) :
    (setTrunc t s).args = s.args := rfl
@[simp] theorem setTrunc_outLen (t : Trunc) (s : State) :
    (setTrunc t s).outLen = s.outLen := rfl
@[simp] theorem setTrunc_trunc (t : Trunc) (s : State) :
    (setTrunc t s).trunc = t := rfl
@[simp] theorem setTrunc_chain (t : Trunc) (s : State) :
    (setTrunc t s).chain = s.chain := rfl
@[simp] theorem setTrunc_buf (t : Trunc) (s : State) :
    (setTrunc t s).buf = s.buf := rfl
@[simp] theorem setTrunc_host (t : Trunc) (s : State) :
    (setTrunc t s).host = s.host := rfl
@[simp] theorem setTrunc_sched (t : Trunc) (s : State) :
    (setTrunc t s).sched = s.sched := rfl

/-! ### storeDigest -/

@[simp] theorem storeDigest_rst (h : Chain) (s : State) :
    (storeDigest h s).rst = s.rst := by
  simp only [storeDigest, setOutLen_rst, setChain_rst, storeBytes_rst]
@[simp] theorem storeDigest_ctrl (h : Chain) (s : State) :
    (storeDigest h s).ctrl = s.ctrl := by
  simp only [storeDigest, setOutLen_ctrl, setChain_ctrl, storeBytes_ctrl]
@[simp] theorem storeDigest_status (h : Chain) (s : State) :
    (storeDigest h s).status = s.status := by
  simp only [storeDigest, setOutLen_status, setChain_status, storeBytes_status]
@[simp] theorem storeDigest_cmd (h : Chain) (s : State) :
    (storeDigest h s).cmd = s.cmd := by
  simp only [storeDigest, setOutLen_cmd, setChain_cmd, storeBytes_cmd]
@[simp] theorem storeDigest_errCause (h : Chain) (s : State) :
    (storeDigest h s).errCause = s.errCause := by
  simp only [storeDigest, setOutLen_errCause, setChain_errCause, storeBytes_errCause]
@[simp] theorem storeDigest_errInfo (h : Chain) (s : State) :
    (storeDigest h s).errInfo = s.errInfo := by
  simp only [storeDigest, setOutLen_errInfo, setChain_errInfo, storeBytes_errInfo]
@[simp] theorem storeDigest_args (h : Chain) (s : State) :
    (storeDigest h s).args = s.args := by
  simp only [storeDigest, setOutLen_args, setChain_args, storeBytes_args]
@[simp] theorem storeDigest_outLen (h : Chain) (s : State) :
    (storeDigest h s).outLen = BitVec.ofNat 32 20 := by
  simp only [storeDigest, setOutLen_outLen]
@[simp] theorem storeDigest_trunc (h : Chain) (s : State) :
    (storeDigest h s).trunc = s.trunc := by
  simp only [storeDigest, setOutLen_trunc, setChain_trunc, storeBytes_trunc]
@[simp] theorem storeDigest_chain (h : Chain) (s : State) :
    (storeDigest h s).chain = h := by
  simp only [storeDigest, setOutLen_chain, setChain_chain]
@[simp] theorem storeDigest_buf (h : Chain) (s : State) :
    (storeDigest h s).buf = s.buf.writeBytes s.args.dst.toNat (digestBytes h) := by
  simp only [storeDigest, setOutLen_buf, setChain_buf, storeBytes_buf]
@[simp] theorem storeDigest_host (h : Chain) (s : State) :
    (storeDigest h s).host = s.host := by
  simp only [storeDigest, setOutLen_host, setChain_host, storeBytes_host]
@[simp] theorem storeDigest_sched (h : Chain) (s : State) :
    (storeDigest h s).sched = s.sched := by
  simp only [storeDigest, setOutLen_sched, setChain_sched, storeBytes_sched]

/-! ### succeed -/

@[simp] theorem succeed_rst (s : State) :
    (succeed s).rst = s.rst := rfl
@[simp] theorem succeed_ctrl (s : State) :
    (succeed s).ctrl = s.ctrl := rfl
@[simp] theorem succeed_status (s : State) :
    (succeed s).status = statusAfterSuccess s.status := rfl
@[simp] theorem succeed_cmd (s : State) :
    (succeed s).cmd = s.cmd := rfl
@[simp] theorem succeed_errCause (s : State) :
    (succeed s).errCause = s.errCause := rfl
@[simp] theorem succeed_errInfo (s : State) :
    (succeed s).errInfo = s.errInfo := rfl
@[simp] theorem succeed_args (s : State) :
    (succeed s).args = s.args := rfl
@[simp] theorem succeed_outLen (s : State) :
    (succeed s).outLen = s.outLen := rfl
@[simp] theorem succeed_trunc (s : State) :
    (succeed s).trunc = s.trunc := rfl
@[simp] theorem succeed_chain (s : State) :
    (succeed s).chain = s.chain := rfl
@[simp] theorem succeed_buf (s : State) :
    (succeed s).buf = s.buf := rfl
@[simp] theorem succeed_host (s : State) :
    (succeed s).host = s.host := rfl
@[simp] theorem succeed_sched (s : State) :
    (succeed s).sched = s.sched := rfl

/-! ### raiseCause -/

@[simp] theorem raiseCause_rst (c : Cause) (info : Word) (s : State) :
    (raiseCause c info s).rst = s.rst := rfl
@[simp] theorem raiseCause_ctrl (c : Cause) (info : Word) (s : State) :
    (raiseCause c info s).ctrl = s.ctrl := rfl
@[simp] theorem raiseCause_status (c : Cause) (info : Word) (s : State) :
    (raiseCause c info s).status = statusAfterFailure s.status := rfl
@[simp] theorem raiseCause_cmd (c : Cause) (info : Word) (s : State) :
    (raiseCause c info s).cmd = s.cmd := rfl
@[simp] theorem raiseCause_errCause (c : Cause) (info : Word) (s : State) :
    (raiseCause c info s).errCause = causeCode c := rfl
@[simp] theorem raiseCause_errInfo (c : Cause) (info : Word) (s : State) :
    (raiseCause c info s).errInfo = info := rfl
@[simp] theorem raiseCause_args (c : Cause) (info : Word) (s : State) :
    (raiseCause c info s).args = s.args := rfl
@[simp] theorem raiseCause_outLen (c : Cause) (info : Word) (s : State) :
    (raiseCause c info s).outLen = s.outLen := rfl
@[simp] theorem raiseCause_trunc (c : Cause) (info : Word) (s : State) :
    (raiseCause c info s).trunc = s.trunc := rfl
@[simp] theorem raiseCause_chain (c : Cause) (info : Word) (s : State) :
    (raiseCause c info s).chain = s.chain := rfl
@[simp] theorem raiseCause_buf (c : Cause) (info : Word) (s : State) :
    (raiseCause c info s).buf = s.buf := rfl
@[simp] theorem raiseCause_host (c : Cause) (info : Word) (s : State) :
    (raiseCause c info s).host = s.host := rfl
@[simp] theorem raiseCause_sched (c : Cause) (info : Word) (s : State) :
    (raiseCause c info s).sched = s.sched := rfl

/-! ### acceptCommand -/

@[simp] theorem acceptCommand_rst (w : Word) (s : State) :
    (acceptCommand w s).rst = s.rst := rfl
@[simp] theorem acceptCommand_ctrl (w : Word) (s : State) :
    (acceptCommand w s).ctrl = s.ctrl := rfl
@[simp] theorem acceptCommand_status (w : Word) (s : State) :
    (acceptCommand w s).status = statusAfterIssue s.status := rfl
@[simp] theorem acceptCommand_cmd (w : Word) (s : State) :
    (acceptCommand w s).cmd = w := rfl
@[simp] theorem acceptCommand_errCause (w : Word) (s : State) :
    (acceptCommand w s).errCause = 0#8 := rfl
@[simp] theorem acceptCommand_errInfo (w : Word) (s : State) :
    (acceptCommand w s).errInfo = 0#32 := rfl
@[simp] theorem acceptCommand_args (w : Word) (s : State) :
    (acceptCommand w s).args = s.args := rfl
@[simp] theorem acceptCommand_outLen (w : Word) (s : State) :
    (acceptCommand w s).outLen = s.outLen := rfl
@[simp] theorem acceptCommand_trunc (w : Word) (s : State) :
    (acceptCommand w s).trunc = s.trunc := rfl
@[simp] theorem acceptCommand_chain (w : Word) (s : State) :
    (acceptCommand w s).chain = s.chain := rfl
@[simp] theorem acceptCommand_buf (w : Word) (s : State) :
    (acceptCommand w s).buf = s.buf := rfl
@[simp] theorem acceptCommand_host (w : Word) (s : State) :
    (acceptCommand w s).host = s.host := rfl
@[simp] theorem acceptCommand_sched (w : Word) (s : State) :
    (acceptCommand w s).sched = s.sched := rfl

/-! ### issue -/

@[simp] theorem issue_rst (w : Word) (s : State) :
    (issue w s).rst = s.rst := rfl
@[simp] theorem issue_ctrl (w : Word) (s : State) :
    (issue w s).ctrl = s.ctrl := rfl
@[simp] theorem issue_status (w : Word) (s : State) :
    (issue w s).status = statusAfterIssue s.status := rfl
@[simp] theorem issue_cmd (w : Word) (s : State) :
    (issue w s).cmd = w := rfl
@[simp] theorem issue_errCause (w : Word) (s : State) :
    (issue w s).errCause = 0#8 := rfl
@[simp] theorem issue_errInfo (w : Word) (s : State) :
    (issue w s).errInfo = 0#32 := rfl
@[simp] theorem issue_args (w : Word) (s : State) :
    (issue w s).args = s.args := rfl
@[simp] theorem issue_outLen (w : Word) (s : State) :
    (issue w s).outLen = s.outLen := rfl
@[simp] theorem issue_trunc (w : Word) (s : State) :
    (issue w s).trunc = s.trunc := rfl
@[simp] theorem issue_chain (w : Word) (s : State) :
    (issue w s).chain = s.chain := rfl
@[simp] theorem issue_buf (w : Word) (s : State) :
    (issue w s).buf = s.buf := rfl
@[simp] theorem issue_host (w : Word) (s : State) :
    (issue w s).host = s.host := rfl
@[simp] theorem issue_sched (w : Word) (s : State) :
    (issue w s).sched = { issued := s.sched.issued + 1, latency := Config.completionLatency s.sched.issued } := rfl

/-! ### softReset -/

@[simp] theorem softReset_rst (s : State) :
    (softReset s).rst = s.rst := rfl
@[simp] theorem softReset_ctrl (s : State) :
    (softReset s).ctrl = State.reset.ctrl := rfl
@[simp] theorem softReset_status (s : State) :
    (softReset s).status = State.reset.status := rfl
@[simp] theorem softReset_cmd (s : State) :
    (softReset s).cmd = State.reset.cmd := rfl
@[simp] theorem softReset_errCause (s : State) :
    (softReset s).errCause = State.reset.errCause := rfl
@[simp] theorem softReset_errInfo (s : State) :
    (softReset s).errInfo = State.reset.errInfo := rfl
@[simp] theorem softReset_args (s : State) :
    (softReset s).args = State.reset.args := rfl
@[simp] theorem softReset_outLen (s : State) :
    (softReset s).outLen = State.reset.outLen := rfl
@[simp] theorem softReset_trunc (s : State) :
    (softReset s).trunc = State.reset.trunc := rfl
@[simp] theorem softReset_chain (s : State) :
    (softReset s).chain = State.reset.chain := rfl
@[simp] theorem softReset_buf (s : State) :
    (softReset s).buf = s.buf := rfl
@[simp] theorem softReset_host (s : State) :
    (softReset s).host = s.host := rfl
@[simp] theorem softReset_sched (s : State) :
    (softReset s).sched = s.sched := rfl

/-! ### hardReset -/

@[simp] theorem hardReset_rst (s : State) :
    (hardReset s).rst = s.rst := rfl
@[simp] theorem hardReset_ctrl (s : State) :
    (hardReset s).ctrl = State.reset.ctrl := rfl
@[simp] theorem hardReset_status (s : State) :
    (hardReset s).status = State.reset.status := rfl
@[simp] theorem hardReset_cmd (s : State) :
    (hardReset s).cmd = State.reset.cmd := rfl
@[simp] theorem hardReset_errCause (s : State) :
    (hardReset s).errCause = State.reset.errCause := rfl
@[simp] theorem hardReset_errInfo (s : State) :
    (hardReset s).errInfo = State.reset.errInfo := rfl
@[simp] theorem hardReset_args (s : State) :
    (hardReset s).args = State.reset.args := rfl
@[simp] theorem hardReset_outLen (s : State) :
    (hardReset s).outLen = State.reset.outLen := rfl
@[simp] theorem hardReset_trunc (s : State) :
    (hardReset s).trunc = State.reset.trunc := rfl
@[simp] theorem hardReset_chain (s : State) :
    (hardReset s).chain = State.reset.chain := rfl
@[simp] theorem hardReset_buf (s : State) :
    (hardReset s).buf = State.reset.buf := rfl
@[simp] theorem hardReset_host (s : State) :
    (hardReset s).host = s.host := rfl
@[simp] theorem hardReset_sched (s : State) :
    (hardReset s).sched = s.sched := rfl

/-! ### setAgenda -/

@[simp] theorem setAgenda_rst (as : List HostAction) (s : State) :
    (setAgenda as s).rst = s.rst := rfl
@[simp] theorem setAgenda_ctrl (as : List HostAction) (s : State) :
    (setAgenda as s).ctrl = s.ctrl := rfl
@[simp] theorem setAgenda_status (as : List HostAction) (s : State) :
    (setAgenda as s).status = s.status := rfl
@[simp] theorem setAgenda_cmd (as : List HostAction) (s : State) :
    (setAgenda as s).cmd = s.cmd := rfl
@[simp] theorem setAgenda_errCause (as : List HostAction) (s : State) :
    (setAgenda as s).errCause = s.errCause := rfl
@[simp] theorem setAgenda_errInfo (as : List HostAction) (s : State) :
    (setAgenda as s).errInfo = s.errInfo := rfl
@[simp] theorem setAgenda_args (as : List HostAction) (s : State) :
    (setAgenda as s).args = s.args := rfl
@[simp] theorem setAgenda_outLen (as : List HostAction) (s : State) :
    (setAgenda as s).outLen = s.outLen := rfl
@[simp] theorem setAgenda_trunc (as : List HostAction) (s : State) :
    (setAgenda as s).trunc = s.trunc := rfl
@[simp] theorem setAgenda_chain (as : List HostAction) (s : State) :
    (setAgenda as s).chain = s.chain := rfl
@[simp] theorem setAgenda_buf (as : List HostAction) (s : State) :
    (setAgenda as s).buf = s.buf := rfl
@[simp] theorem setAgenda_host (as : List HostAction) (s : State) :
    (setAgenda as s).host = { s.host with agenda := as } := rfl
@[simp] theorem setAgenda_sched (as : List HostAction) (s : State) :
    (setAgenda as s).sched = s.sched := rfl

/-! ### tick -/

@[simp] theorem tick_rst (s : State) :
    (tick s).rst = s.rst := rfl
@[simp] theorem tick_ctrl (s : State) :
    (tick s).ctrl = s.ctrl := rfl
@[simp] theorem tick_status (s : State) :
    (tick s).status = s.status := rfl
@[simp] theorem tick_cmd (s : State) :
    (tick s).cmd = s.cmd := rfl
@[simp] theorem tick_errCause (s : State) :
    (tick s).errCause = s.errCause := rfl
@[simp] theorem tick_errInfo (s : State) :
    (tick s).errInfo = s.errInfo := rfl
@[simp] theorem tick_args (s : State) :
    (tick s).args = s.args := rfl
@[simp] theorem tick_outLen (s : State) :
    (tick s).outLen = s.outLen := rfl
@[simp] theorem tick_trunc (s : State) :
    (tick s).trunc = s.trunc := rfl
@[simp] theorem tick_chain (s : State) :
    (tick s).chain = s.chain := rfl
@[simp] theorem tick_buf (s : State) :
    (tick s).buf = s.buf := rfl
@[simp] theorem tick_host (s : State) :
    (tick s).host = s.host := rfl
@[simp] theorem tick_sched (s : State) :
    (tick s).sched = { s.sched with latency := s.sched.latency - 1 } := rfl

/-! ### noteTransaction -/

@[simp] theorem noteTransaction_rst (resp : Resp) (rdata : Word) (s : State) :
    (noteTransaction resp rdata s).rst = s.rst := rfl
@[simp] theorem noteTransaction_ctrl (resp : Resp) (rdata : Word) (s : State) :
    (noteTransaction resp rdata s).ctrl = s.ctrl := rfl
@[simp] theorem noteTransaction_status (resp : Resp) (rdata : Word) (s : State) :
    (noteTransaction resp rdata s).status = s.status := rfl
@[simp] theorem noteTransaction_cmd (resp : Resp) (rdata : Word) (s : State) :
    (noteTransaction resp rdata s).cmd = s.cmd := rfl
@[simp] theorem noteTransaction_errCause (resp : Resp) (rdata : Word) (s : State) :
    (noteTransaction resp rdata s).errCause = s.errCause := rfl
@[simp] theorem noteTransaction_errInfo (resp : Resp) (rdata : Word) (s : State) :
    (noteTransaction resp rdata s).errInfo = s.errInfo := rfl
@[simp] theorem noteTransaction_args (resp : Resp) (rdata : Word) (s : State) :
    (noteTransaction resp rdata s).args = s.args := rfl
@[simp] theorem noteTransaction_outLen (resp : Resp) (rdata : Word) (s : State) :
    (noteTransaction resp rdata s).outLen = s.outLen := rfl
@[simp] theorem noteTransaction_trunc (resp : Resp) (rdata : Word) (s : State) :
    (noteTransaction resp rdata s).trunc = s.trunc := rfl
@[simp] theorem noteTransaction_chain (resp : Resp) (rdata : Word) (s : State) :
    (noteTransaction resp rdata s).chain = s.chain := rfl
@[simp] theorem noteTransaction_buf (resp : Resp) (rdata : Word) (s : State) :
    (noteTransaction resp rdata s).buf = s.buf := rfl
@[simp] theorem noteTransaction_host (resp : Resp) (rdata : Word) (s : State) :
    (noteTransaction resp rdata s).host = { s.host with position := s.host.position + 1, response := some { resp := resp, rdata := rdata } } := rfl
@[simp] theorem noteTransaction_sched (resp : Resp) (rdata : Word) (s : State) :
    (noteTransaction resp rdata s).sched = s.sched := rfl

/-! ### recordBusError -/

@[simp] theorem recordBusError_rst (r : Request) (s : State) :
    (recordBusError r s).rst = s.rst := rfl
@[simp] theorem recordBusError_ctrl (r : Request) (s : State) :
    (recordBusError r s).ctrl = s.ctrl := rfl
@[simp] theorem recordBusError_status (r : Request) (s : State) :
    (recordBusError r s).status = s.status := rfl
@[simp] theorem recordBusError_cmd (r : Request) (s : State) :
    (recordBusError r s).cmd = s.cmd := rfl
@[simp] theorem recordBusError_errCause (r : Request) (s : State) :
    (recordBusError r s).errCause = s.errCause := rfl
@[simp] theorem recordBusError_errInfo (r : Request) (s : State) :
    (recordBusError r s).errInfo = s.errInfo := rfl
@[simp] theorem recordBusError_args (r : Request) (s : State) :
    (recordBusError r s).args = s.args := rfl
@[simp] theorem recordBusError_outLen (r : Request) (s : State) :
    (recordBusError r s).outLen = s.outLen := rfl
@[simp] theorem recordBusError_trunc (r : Request) (s : State) :
    (recordBusError r s).trunc = s.trunc := rfl
@[simp] theorem recordBusError_chain (r : Request) (s : State) :
    (recordBusError r s).chain = s.chain := rfl
@[simp] theorem recordBusError_buf (r : Request) (s : State) :
    (recordBusError r s).buf = s.buf := rfl
@[simp] theorem recordBusError_host (r : Request) (s : State) :
    (recordBusError r s).host = { s.host with busErrors := { addr := r.addr, size := r.size, kind := r.kind } :: s.host.busErrors } := rfl
@[simp] theorem recordBusError_sched (r : Request) (s : State) :
    (recordBusError r s).sched = s.sched := rfl

/-! ### The bits of STATUS -/

@[simp] theorem statusAfterIssue_busy (st : Status) : (statusAfterIssue st).busy = true := rfl
@[simp] theorem statusAfterIssue_done (st : Status) : (statusAfterIssue st).done = false := rfl
@[simp] theorem statusAfterIssue_err (st : Status) : (statusAfterIssue st).err = false := rfl
@[simp] theorem statusAfterIssue_ovr (st : Status) : (statusAfterIssue st).ovr = st.ovr := rfl
@[simp] theorem statusAfterSuccess_busy (st : Status) : (statusAfterSuccess st).busy = false := rfl
@[simp] theorem statusAfterSuccess_done (st : Status) : (statusAfterSuccess st).done = true := rfl
@[simp] theorem statusAfterSuccess_err (st : Status) : (statusAfterSuccess st).err = st.err := rfl
@[simp] theorem statusAfterSuccess_ovr (st : Status) : (statusAfterSuccess st).ovr = st.ovr := rfl
@[simp] theorem statusAfterFailure_busy (st : Status) : (statusAfterFailure st).busy = false := rfl
@[simp] theorem statusAfterFailure_done (st : Status) : (statusAfterFailure st).done = st.done := rfl
@[simp] theorem statusAfterFailure_err (st : Status) : (statusAfterFailure st).err = true := rfl
@[simp] theorem statusAfterFailure_ovr (st : Status) : (statusAfterFailure st).ovr = st.ovr := rfl
@[simp] theorem statusAfterDrop_busy (st : Status) : (statusAfterDrop st).busy = st.busy := rfl
@[simp] theorem statusAfterDrop_done (st : Status) : (statusAfterDrop st).done = st.done := rfl
@[simp] theorem statusAfterDrop_err (st : Status) : (statusAfterDrop st).err = st.err := rfl
@[simp] theorem statusAfterDrop_ovr (st : Status) : (statusAfterDrop st).ovr = true := rfl

end Sys2Proof.Machine
end

