-- ==== Sys2Proof/Laws/Bus.lean ====
section
/-!
SUPPORT. Everything one bus transaction can do, which targets exist, and what a host write can change.
-/

namespace Sys2Proof.Machine

/-! ### The targets of the window -/

@[simp] theorem regAt_regOffset (r : Reg) : regAt (regOffset r) = some r := by
  cases r <;> rfl

theorem regOffset_of_regAt {a : Nat} {r : Reg} (h : regAt a = some r) : a = regOffset r := by
  unfold regAt at h
  split at h <;> first | cases h; rfl | cases h

theorem regOffset_lt (r : Reg) : regOffset r < bufOffset := by
  cases r <;> decide

theorem regOffset_aligned (r : Reg) : regOffset r % 4 = 0 := by
  cases r <;> rfl

/-- A 4-byte access at a register's offset reaches that register. -/
theorem resolve_register (r : Reg) : resolve (regOffset r) 4 = some (.reg r) := by
  simp [resolve, regOffset_aligned, regOffset_lt]

/-- The only way to reach a register: a 4-byte access at its offset (R62). -/
theorem resolve_reg_inv {a n : Nat} {r : Reg} (h : resolve a n = some (.reg r)) : n = 4 ∧ a = regOffset r := by
  simp only [resolve] at h
  split at h
  · rename_i hn
    split at h
    · obtain ⟨r', hr, hrr⟩ := Option.map_eq_some_iff.mp h
      cases hrr
      exact ⟨hn.1, regOffset_of_regAt hr⟩
    · split at h <;> cases h
  · split at h
    · split at h
      · cases h
      · split at h <;> cases h
    · cases h

/-- The only ways to reach BUF: 1 byte, or 4 bytes at an aligned offset, all of them inside BUF (R61). -/
theorem resolve_bytes_inv {a n i k : Nat} (h : resolve a n = some (.bytes i k)) :
    n = k ∧ a = bufOffset + i ∧ i + k ≤ Config.bufBytes ∧ (k = 1 ∨ (k = 4 ∧ i % 4 = 0)) := by
  have ho : bufOffset = 4096 := rfl
  simp only [resolve] at h
  split at h
  · rename_i hn
    split at h
    · obtain ⟨r', -, hrr⟩ := Option.map_eq_some_iff.mp h
      cases hrr
    · split at h
      · obtain ⟨hi, hk⟩ := Target.bytes.inj (Option.some.inj h)
        omega
      · cases h
  · split at h
    · split at h
      · cases h
      · split at h
        · obtain ⟨hi, hk⟩ := Target.bytes.inj (Option.some.inj h)
          omega
        · cases h
    · cases h

@[simp] theorem busBytes_length (n : Nat) (w : Word) : (busBytes n w).length = n := by
  induction n generalizing w with
  | zero => rfl
  | succ n ih => simp [busBytes, ih]

/-! ### Host writes -/

theorem unlessBusy_of_busy {s u : State} (h : s.status.busy = true) :
    unlessBusy s u = { s with status := statusAfterDrop s.status } := by
  simp only [unlessBusy, h, if_true]

theorem unlessBusy_of_idle {s u : State} (h : s.status.busy = false) : unlessBusy s u = u := by
  simp only [unlessBusy, h, Bool.false_eq_true, if_false]

/-- While a command is pending a host write to a register changes nothing, or sets OVR, or clears W1C bits of STATUS, or
writes the enables, or is the soft reset (R28, R29, R33). -/
theorem writeReg_of_busy {r : Reg} {w : Word} {s : State} (h : s.status.busy = true) :
    writeReg r w s = s ∨ writeReg r w s = { s with status := statusAfterDrop s.status } ∨
    writeReg r w s = { s with status := statusAfterW1C s.status w } ∨
    writeReg r w s = { s with ctrl := ctrlOfWord w } ∨ writeReg r w s = softReset s := by
  cases r <;> simp only [writeReg, unlessBusy_of_busy h, true_or, or_true, writeCtrl]
  split
  · exact .inr (.inr (.inr (.inr rfl)))
  · exact .inr (.inr (.inr (.inl rfl)))

/-- A host write to a register while no command is pending: one of these changes and no other. -/
theorem writeReg_of_idle {r : Reg} {w : Word} {s : State} (h : s.status.busy = false) :
    writeReg r w s = s ∨ writeReg r w s = issue w s ∨
    writeReg r w s = { s with status := statusAfterW1C s.status w } ∨
    writeReg r w s = { s with ctrl := ctrlOfWord w } ∨ writeReg r w s = softReset s ∨
    (∃ as, writeReg r w s = { s with args := as }) ∨ ∃ hs, writeReg r w s = { s with chain := hs } := by
  cases r <;> simp only [writeReg, unlessBusy_of_idle h, true_or, or_true, writeCtrl]
  case CTRL =>
    split
    · exact .inr (.inr (.inr (.inr (.inl rfl))))
    · exact .inr (.inr (.inr (.inl rfl)))
  all_goals first
    | exact .inr (.inr (.inr (.inr (.inr (.inl ⟨_, rfl⟩)))))
    | exact .inr (.inr (.inr (.inr (.inr (.inr ⟨_, rfl⟩)))))

/-! ### A transaction -/

theorem readTarget_reg (r : Reg) (s : State) : readTarget (.reg r) s = .ok (readReg r s) := rfl

/-- Everything a transaction that answers a next state can do (R62, R63, R64, R230). -/
theorem transaction_next {r : Request} {s t : State} (h : transaction r s = .next t) :
    (s.rst = true ∧ t = resetTransaction r (tick s)) ∨
    (s.rst = false ∧ resolve r.addr.toNat r.size = none ∧ t = errorTransaction r (tick s)) ∨
    (s.rst = false ∧ r.kind = .read ∧ ∃ target v, resolve r.addr.toNat r.size = some target ∧
      readTarget target s = .ok v ∧ t = noteTransaction .okay v (tick s)) ∨
    (s.rst = false ∧ r.kind = .write ∧ ∃ target, resolve r.addr.toNat r.size = some target ∧
      t = noteTransaction .okay (undrivenRdata s) (writeTarget target r.wdata (tick s))) := by
  unfold transaction at h
  cases hrst : s.rst with
  | true =>
    simp only [hrst, if_true] at h
    exact .inl ⟨rfl, (Host.Outcome.next.inj h).symm⟩
  | false =>
    simp only [hrst, Bool.false_eq_true, if_false] at h
    cases hres : resolve r.addr.toNat r.size with
    | none =>
      simp only [hres] at h
      exact .inr (.inl ⟨rfl, rfl, (Host.Outcome.next.inj h).symm⟩)
    | some target =>
      simp only [hres] at h
      cases hk : r.kind with
      | read =>
        simp only [hk] at h
        cases hv : readTarget target s with
        | error i =>
          simp only [hv] at h
          cases h
        | ok v =>
          simp only [hv] at h
          exact .inr (.inr (.inl ⟨rfl, rfl, target, v, rfl, hv, (Host.Outcome.next.inj h).symm⟩))
      | write =>
        simp only [hk] at h
        exact .inr (.inr (.inr ⟨rfl, rfl, target, rfl, (Host.Outcome.next.inj h).symm⟩))

end Sys2Proof.Machine
end

