-- ==== Sys2Proof/Laws/Access.lean ====
section
/-!
SUPPORT. What a register access and a BUF access, written as the claims write them, do on the bus.
-/

namespace Sys2Proof.Machine

theorem resolve_regAccess (r : Reg) : resolve (BitVec.ofNat 13 (regOffset r)).toNat 4 = some (.reg r) := by
  cases r <;> decide

/-- A host write to a register, whatever the register (R25, R28, R29, R33, R101). -/
theorem transaction_writeReg {s : State} (r : Reg) (w : Word) (h : s.rst = false) :
    transaction (regAccess .write r w) s =
      .next (noteTransaction .okay (undrivenRdata s) (writeReg r w (tick s))) := by
  simp only [transaction, h, regAccess, resolve_regAccess]
  rfl

/-- A host read of a register, whatever the register (R25, R64). -/
theorem transaction_readReg {s : State} (r : Reg) (w : Word) (h : s.rst = false) :
    transaction (regAccess .read r w) s = .next (noteTransaction .okay (readReg r s) (tick s)) := by
  simp only [transaction, h, regAccess, resolve_regAccess, readTarget_reg]
  rfl

@[simp] theorem statusWord_busy (st : Status) : (statusWord st).getLsbD 0 = st.busy := by
  rcases st with ⟨b, d, e, o⟩
  revert b d e o
  decide

/-- One turn of `wait` while `rst` is not asserted: the read of STATUS, after which a host that saw BUSY = 0 goes on (R93). -/
theorem waitTurn_of_rst_low {s : State} (rest : List HostAction) (h : s.rst = false) :
    waitTurn rest s =
      .next (if s.status.busy then noteTransaction .okay (readReg .STATUS s) (tick s)
        else setAgenda rest (noteTransaction .okay (readReg .STATUS s) (tick s))) := by
  have e : readStatusRequest = regAccess .read .STATUS 0 := by decide
  have hb : sawBusy (noteTransaction .okay (readReg .STATUS s) (tick s)) = s.status.busy := statusWord_busy s.status
  simp only [waitTurn, e, transaction_readReg .STATUS 0 h, hb]

theorem resolve_bufAccess {i n : Nat} (hn : n = 1 ∨ (n = 4 ∧ i % 4 = 0)) (hi : i + n ≤ 4096) :
    resolve (BitVec.ofNat 13 (0x1000 + i)).toNat n = some (.bytes i n) := by
  have ha : (BitVec.ofNat 13 (0x1000 + i)).toNat = 0x1000 + i := by
    rcases hn with rfl | ⟨rfl, -⟩ <;> simp only [BitVec.toNat_ofNat] <;> omega
  rw [ha]
  unfold resolve bufOffset Config.bufBytes
  rcases hn with rfl | ⟨rfl, h4⟩
  · rw [if_neg (by omega), if_pos rfl, if_neg (by omega), if_pos (by omega)]
    simp
  · rw [if_pos (by omega), if_neg (by omega), if_pos (by omega)]
    simp

/-- A host write to BUF (R33, R64, R67). -/
theorem transaction_writeBuf {s : State} {i n : Nat} (w : Word) (h : s.rst = false)
    (hn : n = 1 ∨ (n = 4 ∧ i % 4 = 0)) (hi : i + n ≤ 4096) :
    transaction (bufAccess .write i n w) s =
      .next (noteTransaction .okay (undrivenRdata s) (writeTarget (.bytes i n) w (tick s))) := by
  simp only [transaction, h, bufAccess, resolve_bufAccess hn hi]
  rfl

/-- A host read of written bytes of BUF (R64). -/
theorem transaction_readBuf {s : State} {i n : Nat} {bs : List Byte} (w : Word) (h : s.rst = false)
    (hn : n = 1 ∨ (n = 4 ∧ i % 4 = 0)) (hi : i + n ≤ 4096) (hb : s.buf.readBytes i n = .ok bs) :
    transaction (bufAccess .read i n w) s = .next (noteTransaction .okay (busWord bs) (tick s)) := by
  simp only [transaction, h, bufAccess, resolve_bufAccess hn hi, readTarget, hb]
  rfl

/-- A host read that covers an unwritten byte of BUF stops the run (R41). -/
theorem transaction_readBuf_unwritten {s : State} {i n j : Nat} (w : Word) (h : s.rst = false)
    (hn : n = 1 ∨ (n = 4 ∧ i % 4 = 0)) (hi : i + n ≤ 4096) (hb : s.buf.readBytes i n = .error j) :
    transaction (bufAccess .read i n w) s = .fault (.uninitRead j) := by
  simp only [transaction, h, bufAccess, resolve_bufAccess hn hi, readTarget, hb]
  rfl

end Sys2Proof.Machine
end

