-- ==== Sys2Proof/Laws/Bytes.lean ====
section
/-!
SUPPORT. The lengths of the byte sequences the units make, and the ranges of the truncator's outputs.
-/

namespace Sys2Proof.Machine

@[simp] theorem be32Bytes_length (w : Word) : (be32Bytes w).length = 4 := rfl

@[simp] theorem be64Bytes_length (v : DWord) : (be64Bytes v).length = 8 := rfl

@[simp] theorem zeroBytes_length (n : Nat) : (zeroBytes n).length = n := by simp [zeroBytes]

@[simp] theorem digestBytes_length (h : Chain) : (digestBytes h).length = 20 := by simp [digestBytes]

@[simp] theorem xorPad_length (pad : Byte) (block : List Byte) : (xorPad pad block).length = block.length := by
  simp [xorPad]

/-- The padded key is 64 bytes long, whatever the key (R180). -/
@[simp] theorem hmacKeyBlock_length (key : List Byte) : (hmacKeyBlock key).length = 64 := by
  unfold hmacKeyBlock
  split
  · simp
  · simp only [List.length_append, zeroBytes_length]
    omega

theorem be32Words_length : ∀ bs : List Byte, (be32Words bs).length = bs.length / 4
  | [] => by simp [be32Words]
  | [_] => by simp [be32Words]
  | [_, _] => by simp [be32Words]
  | [_, _, _] => by simp [be32Words]
  | _ :: _ :: _ :: _ :: rest => by
    simp only [be32Words, List.length_cons, be32Words_length rest]
    omega

theorem sha1Extend_length (n : Nat) (ws : List Word) : (sha1Extend n ws).length = ws.length + n := by
  induction n generalizing ws with
  | zero => rfl
  | succ n ih =>
    simp only [sha1Extend, ih, List.length_cons]
    omega

/-- The message schedule of a 64-byte block has 80 words (R152). -/
theorem sha1Schedule_length {block : List Byte} (h : block.length = 64) : (sha1Schedule block).length = 80 := by
  simp [sha1Schedule, sha1Extend_length, be32Words_length, h]

theorem sha1Pad_length (m : List Byte) :
    (sha1Pad m).length = m.length + 1 + sha1PadZeros m.length + 8 := by
  simp only [sha1Pad, List.length_append, List.length_cons, List.length_nil, zeroBytes_length, be64Bytes_length]

theorem b32Block_length (vs : List (BitVec 5)) : (b32Block vs).length = 5 * vs.length / 8 := by
  simp [b32Block]

theorem b32Blocks_length (n : Nat) (vs : List (BitVec 5)) (h : 8 * n ≤ vs.length) :
    (b32Blocks n vs).length = 5 * vs.length / 8 := by
  induction n generalizing vs with
  | zero => simp [b32Blocks, b32Block_length]
  | succ n ih =>
    have h8 : (vs.drop 8).length = vs.length - 8 := by simp
    simp only [b32Blocks, List.length_append, b32Block_length, List.length_take, ih (vs.drop 8) (by omega), h8]
    omega

/-- The decoder writes as many bytes as its length says (R124). -/
theorem b32Bytes_length (vs : List (BitVec 5)) : (b32Bytes vs).length = b32Length vs.length :=
  b32Blocks_length _ _ (by omega)

/-- No more values than input bytes. -/
theorem b32Values_length {i : Nat} {cs : List Byte} {vs : List (BitVec 5)} (h : b32Values i cs = .ok vs) :
    vs.length ≤ cs.length := by
  induction cs generalizing i vs with
  | nil =>
    cases h
    simp
  | cons c cs ih =>
    simp only [b32Values] at h
    split at h
    · cases h
    · have := ih h
      simp only [List.length_cons]
      omega
    · split at h
      · cases h
      · rename_i ws hws
        cases h
        have := ih hws
        simp only [List.length_cons]
        omega

/-- The index of the first invalid byte lies in the region (R122). -/
theorem b32Values_error_lt {i j : Nat} {cs : List Byte} (h : b32Values i cs = .error j) :
    i ≤ j ∧ j < i + cs.length := by
  induction cs generalizing i with
  | nil => cases h
  | cons c cs ih =>
    simp only [b32Values] at h
    simp only [List.length_cons]
    split at h
    · cases h
      omega
    · have := ih h
      omega
    · split at h
      · rename_i k hk
        cases h
        have := ih hk
        omega
      · cases h

/-- The TruncatedValue is a 31-bit value (R192). -/
theorem truncValue_lt (mac : List Byte) (o : Nat) : (truncValue mac o).toNat < 2 ^ 31 := by
  have key : ∀ a b c d : Byte,
      (((a &&& 0x7F).setWidth 32 <<< 24) ||| (b.setWidth 32 <<< 16) ||| (c.setWidth 32 <<< 8) ||| d.setWidth 32 : Word).msb
        = false := by
    intro a b c d
    simp [BitVec.msb_eq_getLsbD_last]
  have h := key (mac.getD o 0) (mac.getD (o + 1) 0) (mac.getD (o + 2) 0) (mac.getD (o + 3) 0)
  exact BitVec.toNat_lt_of_msb_false h

/-- The code of `d` digits is below 10^d where that fits a register (R193). -/
theorem truncCode_toNat (v : Word) {d : Nat} (h : d ≤ 9) : (truncCode v d).toNat = v.toNat % 10 ^ d := by
  have h9 : (10 : Nat) ^ d ≤ 10 ^ 9 := Nat.pow_le_pow_right (by omega) h
  have hlt : v.toNat % 10 ^ d < 10 ^ d := Nat.mod_lt _ (Nat.pow_pos (by omega))
  simp only [truncCode, BitVec.toNat_ofNat]
  exact Nat.mod_eq_of_lt (by omega)

end Sys2Proof.Machine
end

