-- ==== Sys2Proof/Laws/Commands.lean ====
section
/-!
SUPPORT. Everything the shared checks and each command can do: where `exec` answers a next state, either the command
failed with a cause, and only ERR_CAUSE, ERR_INFO and STATUS changed, or it succeeded with the writes its rule names.
-/

namespace Sys2Proof.Machine

/-! ### The shared checks (R106) -/

theorem inBounds_iff {base : Word} {n : Nat} : inBounds base n = true ↔ base.toNat + n ≤ Config.bufBytes := by
  simp only [inBounds, decide_eq_true_eq]

theorem checkRegion_of_inBounds {which base : Word} {n : Nat} {s : State} {k : Result}
    (h : base.toNat + n ≤ Config.bufBytes) : checkRegion which base n s k = k := by
  simp only [checkRegion, inBounds_iff.mpr h, if_true]

theorem checkRegion_of_outside {which base : Word} {n : Nat} {s : State} {k : Result}
    (h : Config.bufBytes < base.toNat + n) :
    checkRegion which base n s k = .next (raiseCause .bounds which s) := by
  have hb : inBounds base n = false := by
    cases hb : inBounds base n with
    | false => rfl
    | true =>
      have := inBounds_iff.mp hb
      omega
  simp only [checkRegion, hb, Bool.false_eq_true, if_false]

theorem checkRegion_next {which base : Word} {n : Nat} {s t : State} {k : Result}
    (h : checkRegion which base n s k = .next t) :
    (base.toNat + n ≤ Config.bufBytes ∧ k = .next t) ∨
      (Config.bufBytes < base.toNat + n ∧ t = raiseCause .bounds which s) := by
  by_cases hb : base.toNat + n ≤ Config.bufBytes
  · rw [checkRegion_of_inBounds hb] at h
    exact .inl ⟨hb, h⟩
  · rw [checkRegion_of_outside (by omega)] at h
    exact .inr ⟨by omega, (Host.Outcome.next.inj h).symm⟩

theorem withBytes_of_read {base : Word} {n : Nat} {s : State} {k : List Byte → Result} {bs : List Byte}
    (h : s.buf.readBytes base.toNat n = .ok bs) : withBytes base n s k = k bs := by
  simp only [withBytes, h]

theorem withBytes_of_unwritten {base : Word} {n : Nat} {s : State} {k : List Byte → Result} {i : Nat}
    (h : s.buf.readBytes base.toNat n = .error i) : withBytes base n s k = .fault (.uninitRead i) := by
  simp only [withBytes, h]

theorem withBytes_next {base : Word} {n : Nat} {s t : State} {k : List Byte → Result}
    (h : withBytes base n s k = .next t) : ∃ bs, s.buf.readBytes base.toNat n = .ok bs ∧ k bs = .next t := by
  cases hr : s.buf.readBytes base.toNat n with
  | ok bs =>
    rw [withBytes_of_read hr] at h
    exact ⟨bs, rfl, h⟩
  | error i =>
    rw [withBytes_of_unwritten hr] at h
    cases h

theorem checkDigits_of_legal {d : BitVec 4} {s : State} {k : Result} (h : 1 ≤ d.toNat ∧ d.toNat ≤ 9) :
    checkDigits d s k = k := by
  simp only [checkDigits, h, and_self, if_true]

theorem checkDigits_of_illegal {d : BitVec 4} {s : State} {k : Result} (h : ¬(1 ≤ d.toNat ∧ d.toNat ≤ 9)) :
    checkDigits d s k = .next (raiseCause .digitsRange (d.setWidth 32) s) := by
  simp only [checkDigits, h, if_false]

theorem checkDigits_next {d : BitVec 4} {s t : State} {k : Result} (h : checkDigits d s k = .next t) :
    ((1 ≤ d.toNat ∧ d.toNat ≤ 9) ∧ k = .next t) ∨
      (¬(1 ≤ d.toNat ∧ d.toNat ≤ 9) ∧ t = raiseCause .digitsRange (d.setWidth 32) s) := by
  by_cases hd : 1 ≤ d.toNat ∧ d.toNat ≤ 9
  · rw [checkDigits_of_legal hd] at h
    exact .inl ⟨hd, h⟩
  · rw [checkDigits_of_illegal hd] at h
    exact .inr ⟨hd, (Host.Outcome.next.inj h).symm⟩

/-! ### The commands -/

theorem execSha1Block_next {s t : State} (h : execSha1Block s = .next t) :
    t = raiseCause .bounds sourceRegion s ∨
    ∃ block, s.buf.readBytes s.args.src.toNat 64 = .ok block ∧ s.args.src.toNat + 64 ≤ Config.bufBytes ∧
      t = succeed (setChain (sha1Compress s.chain block) s) := by
  obtain ⟨hb, h⟩ | ⟨-, rfl⟩ := checkRegion_next h
  · obtain ⟨block, hr, h⟩ := withBytes_next h
    exact .inr ⟨block, hr, hb, (Host.Outcome.next.inj h).symm⟩
  · exact .inl rfl

theorem execSha1Digest_next {s t : State} (h : execSha1Digest s = .next t) :
    t = raiseCause .bounds sourceRegion s ∨ t = raiseCause .bounds destRegion s ∨
    ∃ message, s.buf.readBytes s.args.src.toNat s.args.len.toNat = .ok message ∧
      s.args.src.toNat + s.args.len.toNat ≤ Config.bufBytes ∧ s.args.dst.toNat + 20 ≤ Config.bufBytes ∧
      t = succeed (storeDigest (sha1 message) s) := by
  obtain ⟨hb, h⟩ | ⟨-, rfl⟩ := checkRegion_next h
  · obtain ⟨message, hr, h⟩ := withBytes_next h
    obtain ⟨hd, h⟩ | ⟨-, rfl⟩ := checkRegion_next h
    · exact .inr (.inr ⟨message, hr, hb, hd, (Host.Outcome.next.inj h).symm⟩)
    · exact .inr (.inl rfl)
  · exact .inl rfl

theorem execHmacSha1_next {s t : State} (h : execHmacSha1 s = .next t) :
    t = raiseCause .bounds sourceRegion s ∨ t = raiseCause .bounds keyRegion s ∨
    t = raiseCause .bounds destRegion s ∨
    ∃ message key, s.buf.readBytes s.args.src.toNat s.args.len.toNat = .ok message ∧
      s.buf.readBytes s.args.key.toNat s.args.klen.toNat = .ok key ∧
      s.args.src.toNat + s.args.len.toNat ≤ Config.bufBytes ∧ s.args.key.toNat + s.args.klen.toNat ≤ Config.bufBytes ∧
      s.args.dst.toNat + 20 ≤ Config.bufBytes ∧ t = succeed (storeDigest (hmacSha1 key message) s) := by
  obtain ⟨hb, h⟩ | ⟨-, rfl⟩ := checkRegion_next h
  · obtain ⟨hk, h⟩ | ⟨-, rfl⟩ := checkRegion_next h
    · obtain ⟨message, hr, h⟩ := withBytes_next h
      obtain ⟨key, hkr, h⟩ := withBytes_next h
      obtain ⟨hd, h⟩ | ⟨-, rfl⟩ := checkRegion_next h
      · exact .inr (.inr (.inr ⟨message, key, hr, hkr, hb, hk, hd, (Host.Outcome.next.inj h).symm⟩))
      · exact .inr (.inr (.inl rfl))
    · exact .inr (.inl rfl)
  · exact .inl rfl

theorem execCtrEnc_next {s t : State} (h : execCtrEnc s = .next t) :
    t = raiseCause .bounds destRegion s ∨
    (s.args.dst.toNat + 8 ≤ Config.bufBytes ∧
      t = succeed (setOutLen 8 (storeBytes s.args.dst (be64Bytes (counterOperand s.args)) s))) := by
  obtain ⟨hd, h⟩ | ⟨-, rfl⟩ := checkRegion_next h
  · exact .inr ⟨hd, (Host.Outcome.next.inj h).symm⟩
  · exact .inl rfl

theorem execB32Dec_next {s t : State} (h : execB32Dec s = .next t) :
    t = raiseCause .bounds sourceRegion s ∨
    ∃ secret, s.buf.readBytes s.args.src.toNat s.args.len.toNat = .ok secret ∧
      s.args.src.toNat + s.args.len.toNat ≤ Config.bufBytes ∧
      ((∃ i, b32Values 0 secret = .error i ∧ t = raiseCause .invalidChar (BitVec.ofNat 32 i) s) ∨
       ∃ vs, b32Values 0 secret = .ok vs ∧
        ((b32BadCount (vs.length % 8) = true ∧
            t = raiseCause .invalidLength (BitVec.ofNat 32 (vs.length % 8)) s) ∨
         (b32BadCount (vs.length % 8) = false ∧
          (t = raiseCause .bounds destRegion s ∨
           (s.args.dst.toNat + b32Length vs.length ≤ Config.bufBytes ∧
            t = succeed (setOutLen (b32Length vs.length) (storeBytes s.args.dst (b32Bytes vs) s))))))) := by
  obtain ⟨hb, h⟩ | ⟨-, rfl⟩ := checkRegion_next h
  · obtain ⟨secret, hr, h⟩ := withBytes_next h
    refine .inr ⟨secret, hr, hb, ?_⟩
    cases hv : b32Values 0 secret with
    | error i =>
      simp only [hv] at h
      exact .inl ⟨i, rfl, (Host.Outcome.next.inj h).symm⟩
    | ok vs =>
      simp only [hv] at h
      refine .inr ⟨vs, rfl, ?_⟩
      cases hc : b32BadCount (vs.length % 8) with
      | true =>
        simp only [hc, if_true] at h
        exact .inl ⟨rfl, (Host.Outcome.next.inj h).symm⟩
      | false =>
        simp only [hc, Bool.false_eq_true, if_false] at h
        refine .inr ⟨rfl, ?_⟩
        obtain ⟨hd, h⟩ | ⟨-, rfl⟩ := checkRegion_next h
        · exact .inr ⟨hd, (Host.Outcome.next.inj h).symm⟩
        · exact .inl rfl
  · exact .inl rfl

theorem execTrunc_next {d : BitVec 4} {s t : State} (h : execTrunc d s = .next t) :
    (¬(1 ≤ d.toNat ∧ d.toNat ≤ 9) ∧ t = raiseCause .digitsRange (d.setWidth 32) s) ∨
    t = raiseCause .bounds sourceRegion s ∨
    ∃ mac, s.buf.readBytes s.args.src.toNat 20 = .ok mac ∧ s.args.src.toNat + 20 ≤ Config.bufBytes ∧
      (1 ≤ d.toNat ∧ d.toNat ≤ 9) ∧ t = succeed (setTrunc (truncate mac d.toNat) s) := by
  obtain ⟨hd, h⟩ | ⟨hd, rfl⟩ := checkDigits_next h
  · obtain ⟨hb, h⟩ | ⟨-, rfl⟩ := checkRegion_next h
    · obtain ⟨mac, hr, h⟩ := withBytes_next h
      exact .inr (.inr ⟨mac, hr, hb, hd, (Host.Outcome.next.inj h).symm⟩)
    · exact .inr (.inl rfl)
  · exact .inl ⟨hd, rfl⟩

end Sys2Proof.Machine
end

