-- ==== Sys2Proof/Laws/PerInstr.lean ====
section
/-!
SUPPORT. The family `Fields`, one lemma per command: its word has the opcode of the table of 30_encoding.md R82 in bits
7:0, its digit count in bits 11:8 and zeros above (R80), and only `TRUNC` has a digit count.
-/

namespace Sys2Proof.Laws.Fields

/-- The fields of a command's word (R80, R82). -/
def Statement (i : Instr) : Prop :=
  opField (encode i) = i.opcode ∧ digField (encode i) = i.digits ∧ rsvField (encode i) = 0 ∧
    i.opcode.toNat ≤ 7 ∧ (i.opcode ≠ 7 → i.digits = 0)

theorem nop : Statement .nop := by
  unfold Statement
  decide

theorem sha1Init : Statement .sha1Init := by
  unfold Statement
  decide

theorem sha1Block : Statement .sha1Block := by
  unfold Statement
  decide

theorem sha1Digest : Statement .sha1Digest := by
  unfold Statement
  decide

theorem hmacSha1 : Statement .hmacSha1 := by
  unfold Statement
  decide

theorem ctrEnc : Statement .ctrEnc := by
  unfold Statement
  decide

theorem b32Dec : Statement .b32Dec := by
  unfold Statement
  decide

theorem trunc (d : BitVec 4) : Statement (.trunc d) := by
  unfold Statement
  revert d
  decide

end Sys2Proof.Laws.Fields
end

