-- ==== Sys2Proof/Laws/Step.lean ====
section
/-!
SUPPORT. Everything a step can do, everything an entry of the agenda can do, and what a step can do after the end of a run.
-/

namespace Sys2Proof.Machine

theorem completionDue_iff {s : State} :
    completionDue s = true ↔
      s.status.busy = true ∧ s.rst = false ∧ (s.sched.latency = 0 ∨ s.host.agenda = []) := by
  simp only [completionDue, Bool.and_eq_true, Bool.or_eq_true, Bool.not_eq_true', beq_iff_eq, List.isEmpty_iff, and_assoc]

/-- A step is a completion, or nothing, or what the agenda's first entry does. -/
theorem step_next {s t : State} (h : step s = .next t) :
    (completionDue s = true ∧ complete s = .next t) ∨
    (completionDue s = false ∧ s.host.agenda = [] ∧ t = s) ∨
    (completionDue s = false ∧ ∃ a rest, s.host.agenda = a :: rest ∧ perform a rest s = .next t) := by
  unfold step at h
  cases hd : completionDue s with
  | true =>
    simp only [hd, if_true] at h
    exact .inl ⟨rfl, h⟩
  | false =>
    simp only [hd, Bool.false_eq_true, if_false] at h
    cases ha : s.host.agenda with
    | nil =>
      simp only [ha] at h
      exact .inr (.inl ⟨rfl, rfl, (Host.Outcome.next.inj h).symm⟩)
    | cons a rest =>
      simp only [ha] at h
      exact .inr (.inr ⟨rfl, a, rest, rfl, h⟩)

/-- A completion runs the decoded command or fails with ILLEGAL_CMD (R106). -/
theorem complete_next {s t : State} (h : complete s = .next t) :
    (∃ i, decode s.cmd = .ok i ∧ exec i s = .next t) ∨
    ∃ e, decode s.cmd = .error e ∧ t = raiseCause .illegalCmd s.cmd s := by
  unfold complete at h
  cases hd : decode s.cmd with
  | ok i =>
    simp only [hd] at h
    exact .inl ⟨i, rfl, h⟩
  | error e =>
    simp only [hd] at h
    exact .inr ⟨e, rfl, (Host.Outcome.next.inj h).symm⟩

/-- An entry of the agenda is a transaction, a turn of `wait`, which is a read of STATUS, or a change of `rst`. -/
theorem perform_next {a : HostAction} {rest : List HostAction} {s t : State} (h : perform a rest s = .next t) :
    (∃ r, a = .bus r ∧ transaction r (setAgenda rest s) = .next t) ∨
    (a = .wait ∧ ∃ u, transaction readStatusRequest s = .next u ∧ (t = u ∨ t = setAgenda rest u)) ∨
    (a = .rstAssert ∧ t = assertRst (setAgenda rest s)) ∨
    (a = .rstRelease ∧ t = releaseRst (setAgenda rest s)) := by
  cases a with
  | bus r => exact .inl ⟨r, rfl, h⟩
  | wait =>
    refine .inr (.inl ⟨rfl, ?_⟩)
    simp only [perform, waitTurn] at h
    split at h
    · rename_i u hu
      refine ⟨u, hu, ?_⟩
      have h := (Host.Outcome.next.inj h).symm
      split at h
      · exact .inl h
      · exact .inr h
    · cases h
    · cases h
  | rstAssert => exact .inr (.inr (.inl ⟨rfl, (Host.Outcome.next.inj h).symm⟩))
  | rstRelease => exact .inr (.inr (.inr ⟨rfl, (Host.Outcome.next.inj h).symm⟩))

/-- Releasing `rst` leaves the host as it was. -/
@[simp] theorem releaseRst_host (s : State) : (releaseRst s).host = s.host := by
  unfold releaseRst; split <;> rfl

theorem releaseRst_busy {s : State} (h : s.status.busy = false) : (releaseRst s).status.busy = false := by
  unfold releaseRst; split
  · rfl
  · exact h

/-- With no host program left, an entry of the agenda is a change of `rst`. -/
theorem perform_of_not_isHostProgram {a : HostAction} (rest : List HostAction) (s : State) (h : a.isHostProgram = false) :
    perform a rest s = .next (assertRst (setAgenda rest s)) ∨ perform a rest s = .next (releaseRst (setAgenda rest s)) := by
  cases a with
  | bus r => cases h
  | wait => cases h
  | rstAssert => exact .inl rfl
  | rstRelease => exact .inr rfl

/-- After the end of a run every step answers a next state, the run stays over, and no transaction is performed (R244,
R216). -/
theorem step_of_runOver {s : State} (h : RunOver s) :
    ∃ t, step s = .next t ∧ RunOver t ∧ t.host.position = s.host.position := by
  obtain ⟨hp, hb⟩ := h
  have hd : completionDue s = false := by simp only [completionDue, hb, Bool.false_and]
  cases ha : s.host.agenda with
  | nil => exact ⟨s, by simp only [step, hd, ha]; rfl, ⟨hp, hb⟩, rfl⟩
  | cons a rest =>
    have hs : step s = perform a rest s := by simp only [step, hd, ha]; rfl
    have hr : ∀ a ∈ rest, a.isHostProgram = false := fun b hm => hp b (ha ▸ List.mem_cons_of_mem a hm)
    rcases perform_of_not_isHostProgram rest s (hp a (ha ▸ List.mem_cons_self)) with h | h
    · exact ⟨_, hs.trans h, ⟨hr, rfl⟩, rfl⟩
    · exact ⟨_, hs.trans h, ⟨by rw [releaseRst_host]; exact hr, releaseRst_busy hb⟩, by rw [releaseRst_host]; rfl⟩

end Sys2Proof.Machine
end

