-- ==== Sys2Proof/Tests/Slice0.lean ====
section
/-!
SUPPORT. The model's own tests. Expected values are those of the spec's worked examples and derived vectors
(95_test_vectors.md, named in each test), and for every statement with hypotheses a witness that they can be met, at the
boundary of each clause's range.
-/

namespace Sys2Proof.Tests

open Sys2Proof.Machine

/-! ### Small states -/

/-- The reset state with some bytes in BUF from index 0 on. -/
def loaded (bs : List Byte) : State := { State.reset with buf := Memory.writeBytes [] 0 bs }

/-- A state with the arguments SRC, LEN and DST. -/
def withArgs (src len dst : Word) (s : State) : State :=
  { s with args := { s.args with src := src, len := len, dst := dst } }

/-- A state with the arguments KEY and KLEN. -/
def withKey (key klen : Word) (s : State) : State := { s with args := { s.args with key := key, klen := klen } }

/-- A state with the counter CTR_HI, CTR_LO. -/
def withCounter (hi lo : Word) (s : State) : State := { s with args := { s.args with ctrHi := hi, ctrLo := lo } }

/-- A state with a pending command word, a latency and an agenda. -/
def pending (w : Word) (latency : Nat) (agenda : List HostAction) (s : State) : State :=
  { acceptCommand w s with
    sched := { s.sched with latency := latency }
    host := { s.host with agenda := agenda } }

/-- The reset state with `rst` asserted. -/
def inReset : State := { State.reset with rst := true }

/-- A test of the next state; false where there is none. -/
def nextIs (r : Result) (p : State → Bool) : Bool :=
  match r with
  | .next t => p t
  | .fault _ => false
  | .refused _ => false

/-- The outcome is the fault UninitRead at an index. -/
def faultsAt (r : Result) (i : Nat) : Bool :=
  match r with
  | .next _ => false
  | .fault (.uninitRead j) => i == j
  | .refused _ => false

/-- STATUS, ERR_CAUSE and ERR_INFO read as given: "ERR c/i" of 95_test_vectors.md is 4, c, i and "OK" is 2, 0, 0. -/
def reads (status cause info : Word) (t : State) : Bool :=
  readReg .STATUS t == status && readReg .ERR_CAUSE t == cause && readReg .ERR_INFO t == info

/-- The bytes BUF[a..a+n) are given. -/
def holds (a : Nat) (bs : List Byte) (t : State) : Bool :=
  match t.buf.readBytes a bs.length with
  | .ok cs => cs == bs
  | .error _ => false

/-- The last response to the host. -/
def answered (resp : Resp) (rdata : Word) (t : State) : Bool :=
  t.host.response == some { resp := resp, rdata := rdata }

/-- "abc" in ASCII. -/
def abc : List Byte := [0x61, 0x62, 0x63]

/-- The padded block of "abc" (R161): `61626380`, 52 zero bytes, `0000000000000018`. -/
def abcBlock : List Byte := [0x61, 0x62, 0x63, 0x80] ++ List.replicate 59 0x00 ++ [0x18]

/-- `JBSWY3DPEHPK3PXP` in ASCII (X4). -/
def katSecret : List Byte :=
  [0x4A, 0x42, 0x53, 0x57, 0x59, 0x33, 0x44, 0x50, 0x45, 0x48, 0x50, 0x4B, 0x33, 0x50, 0x58, 0x50]

/-- `JBSW1` in ASCII (X5). -/
def badSecret : List Byte := [0x4A, 0x42, 0x53, 0x57, 0x31]

/-- The MAC of RFC 4226 §5.4 (R190, V-TRUNC). -/
def rfcMac : List Byte :=
  [0x1f, 0x86, 0x98, 0x69, 0x0e, 0x02, 0xca, 0x16, 0x61, 0x85, 0x50, 0xef, 0x7f, 0x19, 0xda, 0x8e, 0x94, 0x5b, 0x55, 0x5a]

/-! ### Well-formedness: the one check refuses digit counts outside 1..9 (R86, R190) -/

theorem test_trunc0_ill_formed : (Instr.trunc 0).wellFormed = false := by decide

theorem test_trunc10_ill_formed : (Instr.trunc 10).wellFormed = false := by decide

theorem test_trunc1_trunc9_well_formed : (Instr.trunc 1).wellFormed && (Instr.trunc 9).wellFormed = true := by decide

/-! ### Decoding: each word written out from its fields RSV, DIG, OP (R80, R82) -/

theorem test_decode_nop : decodeTableWord 32 0b00000000000000000000_0000_00000000 = some .nop := by decide

theorem test_decode_sha1Init : decodeTableWord 32 0b00000000000000000000_0000_00000001 = some .sha1Init := by decide

theorem test_decode_sha1Block : decodeTableWord 32 0b00000000000000000000_0000_00000010 = some .sha1Block := by decide

theorem test_decode_sha1Digest : decodeTableWord 32 0b00000000000000000000_0000_00000011 = some .sha1Digest := by decide

theorem test_decode_hmacSha1 : decodeTableWord 32 0b00000000000000000000_0000_00000100 = some .hmacSha1 := by decide

theorem test_decode_ctrEnc : decodeTableWord 32 0b00000000000000000000_0000_00000101 = some .ctrEnc := by decide

theorem test_decode_b32Dec : decodeTableWord 32 0b00000000000000000000_0000_00000110 = some .b32Dec := by decide

theorem test_decode_trunc : decodeTableWord 32 0b00000000000000000000_0110_00000111 = some (.trunc 6) := by decide

/-- The ILLEGAL words of V-ERR. -/
theorem test_decode_illegal :
    [0x00000100, 0x00000008, 0x000000FF, 0x00001000, 0x80000003, 0x00001607].all
      (fun w => (decodeTableWord 32 w).isNone) = true := by decide

/-- R83: the first word of V-ERR is rejected for its DIG, the second for its OP, the fourth for its RSV. -/
theorem test_decode_reasons :
    (match decode 0x00000100 with | .error e => e == .digitsNotZero | .ok _ => false) &&
    (match decode 0x00000008 with | .error e => e == .reservedOpcode | .ok _ => false) &&
    (match decode 0x00001000 with | .error e => e == .reservedBits | .ok _ => false) = true := by decide

/-! ### The commands -/

/-- V-NOP 1. -/
theorem test_nop : nextIs (exec .nop State.reset) (reads 2 0 0) = true := by decide

/-- V-INIT 2. -/
theorem test_sha1Init :
    nextIs (exec .sha1Init (setChain { h0 := 0, h1 := 0, h2 := 0, h3 := 0, h4 := 0 } State.reset))
      (fun t => readReg .H0 t == 0x67452301 && readReg .H4 t == 0xC3D2E1F0) = true := by decide

/-- V-SHA-1: the padded "abc" from the IV (R161). -/
theorem test_sha1Block_abc :
    nextIs (exec .sha1Block (loaded abcBlock)) (fun t => t.chain ==
      { h0 := 0xa9993e36, h1 := 0x4706816a, h2 := 0xba3e2571, h3 := 0x7850c26c, h4 := 0x9cd0d89d }) = true := by
  decide +kernel

/-- V-SHA-1 errors 2: SRC = 4033. -/
theorem test_sha1Block_bounds :
    nextIs (exec .sha1Block (withArgs 4033 0 0 State.reset)) (reads 4 2 1) = true := by decide

/-- V-SHA-1 errors 9: "abc" at 0, SRC = 0, LEN = 3, DST = 1: the digest of the pre-command bytes. -/
theorem test_sha1Digest_overlap :
    nextIs (exec .sha1Digest (withArgs 0 3 1 (loaded abc))) (fun t =>
      holds 0 [0x61, 0xa9, 0x99, 0x3e, 0x36, 0x47, 0x06, 0x81, 0x6a, 0xba, 0x3e, 0x25, 0x71, 0x78, 0x50, 0xc2, 0x6c,
        0x9c, 0xd0, 0xd8, 0x9d] t && readReg .OUT_LEN t == 20) = true := by decide +kernel

/-- V-SHA-1 errors 10: an unwritten message byte. -/
theorem test_sha1Digest_unwritten : faultsAt (exec .sha1Digest (withArgs 0 1 0 State.reset)) 0 = true := by decide

/-- V-HMAC 19: key and message are the same 20 bytes `0b`, and the MAC is written over them. -/
theorem test_hmacSha1_overlap :
    nextIs (exec .hmacSha1 (withKey 0 20 (withArgs 0 20 0 (loaded (List.replicate 20 0x0b))))) (holds 0
      [0x6c, 0x69, 0x6f, 0x59, 0xed, 0x79, 0x5a, 0xae, 0x65, 0x53, 0xff, 0xbc, 0xa5, 0x34, 0x49, 0xe4, 0xb4, 0xe1, 0xef,
       0xe6]) = true := by decide +kernel

/-- V-HMAC 12: a key of 65 bytes `01` is hashed first. -/
theorem test_hmacSha1_long_key :
    digestBytes (hmacSha1 (List.replicate 65 0x01) abc) =
      [0x1f, 0x97, 0xcf, 0x31, 0x85, 0x0b, 0xd6, 0x79, 0x88, 0x4b, 0x65, 0x2b, 0x2b, 0xcd, 0x27, 0x32, 0x4e, 0x4e, 0x9c,
       0xbd] := by decide +kernel

/-- V-CTR: 0x01234567, 0x89ABCDEF at 0. -/
theorem test_ctrEnc :
    nextIs (exec .ctrEnc (withCounter 0x01234567 0x89ABCDEF State.reset)) (fun t =>
      holds 0 [0x01, 0x23, 0x45, 0x67, 0x89, 0xab, 0xcd, 0xef] t && readReg .OUT_LEN t == 8) = true := by decide

/-- V-CTR: DST = 4089. -/
theorem test_ctrEnc_bounds : nextIs (exec .ctrEnc (withArgs 0 0 4089 State.reset)) (reads 4 2 3) = true := by decide

/-- X4, V-B32: the secret of TMC §8. -/
theorem test_b32Dec :
    nextIs (exec .b32Dec (withArgs 0 16 0x100 (loaded katSecret))) (fun t =>
      holds 0x100 [0x48, 0x65, 0x6c, 0x6c, 0x6f, 0x21, 0xde, 0xad, 0xbe, 0xef] t && readReg .OUT_LEN t == 10) = true := by
  decide +kernel

/-- X5: `JBSW1` fails with INVALID_CHAR at index 4. -/
theorem test_b32Dec_invalid :
    nextIs (exec .b32Dec (withArgs 0 5 0x100 (loaded badSecret))) (reads 4 3 4) = true := by decide +kernel

/-- X9: RFC 4226 §5.4 with d = 6. -/
theorem test_trunc :
    nextIs (exec (.trunc 6) (loaded rfcMac)) (fun t =>
      readReg .T_OFF t == 10 && readReg .RESULT t == 0x50EF7F19 && readReg .CODE t == 872921) = true := by
  decide +kernel

/-- V-TRUNC errors: d = 15 with SRC = 0xFFFFFFFF fails with DIGITS_RANGE, before BOUNDS. -/
theorem test_trunc_digits :
    nextIs (exec (.trunc 15) (withArgs 0xFFFFFFFF 0 0 State.reset)) (reads 4 5 15) = true := by decide

/-! ### Steps and the bus -/

/-- V-ERR: the word 0x00000008 fails at completion with ILLEGAL_CMD and the word as its detail. -/
theorem test_step_illegal :
    nextIs (step (State.reset.withFetchWord 32 0x00000008)) (reads 4 1 8) = true := by decide

/-- V-BUS 8: four bytes written one by one read back little-endian. -/
theorem test_bus_little_endian :
    nextIs (transaction (bufAccess .read 0 4 0) (loaded [0x61, 0x62, 0x63, 0x64])) (answered .okay 0x64636261) = true := by
  decide +kernel

/-- V-BUS 5: a read of the unmapped offset 0x001C. -/
theorem test_bus_unmapped :
    nextIs (transaction { kind := .read, addr := 0x001C, size := 4, wdata := 0 } State.reset) (fun t =>
      answered .error 0 t && t.host.busErrors == [{ addr := 0x001C, size := 4, kind := .read }]) = true := by
  decide +kernel

/-- V-BUS 11: STATUS = 0x0000000A, a write of 0x00000008 clears only OVR. -/
theorem test_status_w1c :
    nextIs (transaction (regAccess .write .STATUS 0x00000008)
      { State.reset with status := { busy := false, done := true, err := false, ovr := true } })
      (fun t => readReg .STATUS t == 0x00000002) = true := by decide +kernel

/-- V-BUS 17: CTRL written with 0x7FFFFFFF reads 0x00000003. -/
theorem test_ctrl_reserved :
    nextIs (transaction (regAccess .write .CTRL 0x7FFFFFFF) State.reset)
      (fun t => readReg .CTRL t == 0x00000003) = true := by decide +kernel

/-- V-BUS 15: the soft reset by 0x80000003. -/
theorem test_soft_reset :
    nextIs (transaction (regAccess .write .CTRL 0x80000003)
      (setChain { h0 := 0, h1 := 0, h2 := 0, h3 := 0, h4 := 0 } (loaded abc)))
      (fun t => readReg .CTRL t == 0 && readReg .H0 t == 0x67452301 && holds 0 abc t && !t.irq) = true := by
  decide +kernel

/-- V-BUS 18: a write to SRC while a command is pending is dropped and sets OVR. -/
theorem test_dropped_write :
    nextIs (transaction (regAccess .write .SRC 0x00000040) (pending 0 1 [] State.reset))
      (fun t => readReg .SRC t == 0 && readReg .STATUS t == 0x00000009) = true := by decide +kernel

/-- P1: `run SHA1.DIGEST` is a write of 0x00000003 to 0x0010 and a wait. -/
theorem test_run_expansion :
    assembleLine (.run 0x00000003) =
      some [.bus { kind := .write, addr := 0x0010, size := 4, wdata := 0x00000003 }, .wait] := by decide

/-! ### Witnesses: the hypotheses of each statement can be met -/

theorem witness_LegalWordsAreSixteen :
    ¬(1 ≤ (0 : BitVec 4).toNat ∧ (0 : BitVec 4).toNat ≤ 9) ∧ ¬(1 ≤ (10 : BitVec 4).toNat ∧ (10 : BitVec 4).toNat ≤ 9) := by
  decide

/-- Due by its latency, and due because the host has nothing left to do. -/
theorem witness_StepRunsDecodedCommand :
    (∃ (s : State) (i : Instr), s.status.busy = true ∧ s.rst = false ∧ s.sched.latency = 0 ∧ s.host.agenda ≠ [] ∧
      decode s.cmd = .ok i) ∧
    (∃ (s : State) (i : Instr), s.status.busy = true ∧ s.rst = false ∧ s.sched.latency = 1 ∧ s.host.agenda = [] ∧
      decode s.cmd = .ok i) ∧
    (∃ (w : Nat) (i : Instr), decode (BitVec.ofNat 32 w) = .ok i) :=
  ⟨⟨pending 0 0 [.wait] State.reset, .nop, rfl, rfl, rfl, by decide, rfl⟩,
   ⟨pending 6 1 [] State.reset, .b32Dec, rfl, rfl, rfl, rfl, rfl⟩, ⟨0x907, .trunc 9, rfl⟩⟩

theorem witness_IllegalWordFailsAtCompletion :
    ∃ (s : State) (e : DecodeError), s.status.busy = true ∧ s.rst = false ∧
      (s.sched.latency = 0 ∨ s.host.agenda = []) ∧ decode s.cmd = .error e :=
  ⟨pending 8 0 [] State.reset, .reservedOpcode, rfl, rfl, .inl rfl, rfl⟩

/-- Idle with nothing to do, idle with something to do, and pending with the latency not yet passed. -/
theorem witness_HostMovesOtherwise :
    (completionDue State.reset = false ∧ State.reset.host.agenda = []) ∧
    (completionDue (setAgenda [.wait] State.reset) = false ∧ (setAgenda [.wait] State.reset).host.agenda = [.wait]) ∧
    (completionDue (pending 0 1 [.wait] State.reset) = false ∧ (pending 0 1 [.wait] State.reset).status.busy = true) := by
  decide

theorem witness_StepKeepsInv : Inv (pending 0 0 [] State.reset) ∧ ∃ t, step (pending 0 0 [] State.reset) = .next t :=
  ⟨⟨by decide, by decide, by decide, by decide, by decide, by decide, by decide, by decide, by decide,
    .inl ⟨by decide, by decide⟩, fun h => absurd h (by decide)⟩, _, rfl⟩

theorem witness_OnlyUnwrittenReadsStop : ∃ s : State, step s = .fault (.uninitRead 0) :=
  ⟨pending 2 0 [] State.reset, by rfl⟩

theorem witness_WaitReachesCompletion :
    ∃ (s : State) (rest : List HostAction), s.status.busy = true ∧ s.rst = false ∧ s.host.agenda = .wait :: rest ∧
      s.sched.latency = 3 :=
  ⟨pending 0 3 [.wait, .wait] State.reset, [.wait], rfl, rfl, rfl, rfl⟩

/-- R244: the run is over with only changes of `rst` to come, and not with a `wait` to come or a command pending. -/
theorem test_runOver :
    RunOver (setAgenda [.rstAssert, .rstRelease] State.reset) ∧ ¬RunOver (setAgenda [.rstAssert, .wait] State.reset) ∧
    ¬RunOver (pending 0 1 [.rstAssert] State.reset) := by
  refine ⟨⟨?_, rfl⟩, fun h => absurd (h.1 .wait ?_) ?_, fun h => absurd h.2 ?_⟩ <;> decide

/-- A `wait` beside a pending command, and one with none pending. -/
theorem witness_WaitTurnsUntilIdle :
    (∃ (s : State) (rest : List HostAction), s.rst = false ∧ s.host.agenda = .wait :: rest ∧ completionDue s = false ∧
      s.status.busy = true) ∧
    (∃ (s : State) (rest : List HostAction), s.rst = false ∧ s.host.agenda = .wait :: rest ∧ completionDue s = false ∧
      s.status.busy = false) :=
  ⟨⟨pending 0 1 [.wait] State.reset, [], rfl, rfl, by decide, rfl⟩,
   ⟨setAgenda [.wait, .rstAssert] State.reset, [.rstAssert], rfl, rfl, by decide, rfl⟩⟩

/-- A pending command with a read of STATUS before it, and one with the soft reset before it. -/
theorem witness_PendingInputsStable :
    (∃ s t : State, s.status.busy = true ∧ completionDue s = false ∧ step s = .next t ∧ t.status.busy = true) ∧
    (∃ s t : State, s.status.busy = true ∧ completionDue s = false ∧ step s = .next t ∧ t.status.busy = false) :=
  ⟨⟨pending 0 2 [.bus readStatusRequest] State.reset, _, rfl, by decide, rfl, by decide⟩,
   ⟨pending 0 2 [.bus (regAccess .write .CTRL 0x80000000)] State.reset, _, rfl, by decide, rfl, by decide +kernel⟩⟩

/-- A success and a failure; they are witnesses too for the outputs and the destination statements. -/
theorem witness_CommandSucceedsOrFailsPrecisely :
    (∃ t, exec .ctrEnc State.reset = .next t ∧ t.status.done = true) ∧
    (∃ t, exec .ctrEnc (withArgs 0 0 4089 State.reset) = .next t ∧ t.status.err = true) :=
  ⟨⟨_, rfl, rfl⟩, ⟨_, rfl, rfl⟩⟩

theorem witness_OutputsOnlyByTheirCommands :
    (∃ t, exec .nop State.reset = .next t) ∧
    Instr.nop ∉ ([.sha1Digest, .hmacSha1, .ctrEnc, .b32Dec] : List Instr) ∧
    Instr.nop ∉ ([.sha1Init, .sha1Block, .sha1Digest, .hmacSha1] : List Instr) ∧ (∀ d, Instr.nop ≠ .trunc d) :=
  ⟨⟨_, rfl⟩, by decide, by decide, fun _ h => by cases h⟩

theorem witness_BufWritesStayInDestination : ∃ t, exec .ctrEnc (withArgs 0 0 4088 State.reset) = .next t := ⟨_, rfl⟩

theorem witness_NopOnlyCompletes : (0x100 : Word).toNat % 256 = 0 ∧ (0x100 : Word) ≠ 0 := by decide

/-- In bounds and written, just out of bounds, in bounds and unwritten. -/
theorem witness_Sha1BlockCompresses :
    (∃ (s : State) (block : List Byte), s.args.src.toNat + 64 ≤ 4096 ∧ s.buf.readBytes s.args.src.toNat 64 = .ok block) ∧
    (4096 < (withArgs 4033 0 0 State.reset).args.src.toNat + 64) ∧
    (∃ (s : State) (i : Nat), s.args.src.toNat + 64 = 4096 ∧ s.args.src.toNat ≤ i ∧ i < s.args.src.toNat + 64 ∧
      s.buf.read i = none) :=
  ⟨⟨loaded abcBlock, abcBlock, by decide, Memory.readBytes_writeBytes [] 0 abcBlock⟩, by decide,
   ⟨withArgs 4032 0 0 State.reset, 4095, by decide, by decide, by decide, by rfl⟩⟩

/-- A message at 0 with DST at its highest value. -/
theorem witness_Sha1DigestCompletes :
    ∃ (s : State) (message : List Byte), s.args.src.toNat + s.args.len.toNat ≤ 4096 ∧ s.args.dst.toNat + 20 = 4096 ∧
      s.buf.readBytes s.args.src.toNat s.args.len.toNat = .ok message :=
  ⟨withArgs 0 3 4076 (loaded abc), abc, by decide, by decide, by rfl⟩

theorem witness_HmacSha1Completes :
    ∃ (s : State) (key message : List Byte), s.args.src.toNat + s.args.len.toNat ≤ 4096 ∧
      s.args.key.toNat + s.args.klen.toNat ≤ 4096 ∧ s.args.dst.toNat + 20 ≤ 4096 ∧
      s.buf.readBytes s.args.src.toNat s.args.len.toNat = .ok message ∧
      s.buf.readBytes s.args.key.toNat s.args.klen.toNat = .ok key :=
  ⟨withKey 1 2 (withArgs 0 3 0 (loaded abc)), [0x62, 0x63], abc, by decide, by decide, by decide, by rfl, by rfl⟩

/-- The highest legal DST and the lowest illegal one. -/
theorem witness_CtrEncWritesCounter :
    (withArgs 0 0 4088 State.reset).args.dst.toNat + 8 ≤ 4096 ∧
    4096 < (withArgs 0 0 4089 State.reset).args.dst.toNat + 8 := by decide

/-- `77` decodes to one byte, here at the last byte of BUF. -/
theorem witness_B32DecCompletes :
    ∃ (s : State) (secret : List Byte) (vs : List (BitVec 5)), s.args.src.toNat + s.args.len.toNat ≤ 4096 ∧
      s.buf.readBytes s.args.src.toNat s.args.len.toNat = .ok secret ∧ b32Values 0 secret = .ok vs ∧
      vs.length % 8 ≠ 1 ∧ vs.length % 8 ≠ 3 ∧ vs.length % 8 ≠ 6 ∧ s.args.dst.toNat + 5 * vs.length / 8 = 4096 :=
  ⟨withArgs 0 2 4095 (loaded [0x37, 0x37]), [0x37, 0x37], [31, 31], by decide, by rfl, by rfl, by decide, by decide,
    by decide, by decide⟩

theorem witness_TruncCompletes :
    ∃ (d : BitVec 4) (s : State) (mac : List Byte), d.toNat = 9 ∧ s.args.src.toNat + 20 ≤ 4096 ∧
      s.buf.readBytes s.args.src.toNat 20 = .ok mac :=
  ⟨9, loaded rfcMac, rfcMac, by decide, by decide, Memory.readBytes_writeBytes [] 0 rfcMac⟩

/-- Source out of bounds by one; source in and key out; everything readable and DST out by one. -/
theorem witness_DigestAndHmacBoundsInOrder :
    (4096 < (withArgs 4000 97 0 State.reset).args.src.toNat + (withArgs 4000 97 0 State.reset).args.len.toNat) ∧
    (∃ s : State, s.args.src.toNat + s.args.len.toNat ≤ 4096 ∧ 4096 < s.args.key.toNat + s.args.klen.toNat) ∧
    (∃ (s : State) (key message : List Byte), s.args.src.toNat + s.args.len.toNat ≤ 4096 ∧
      s.args.key.toNat + s.args.klen.toNat ≤ 4096 ∧
      s.buf.readBytes s.args.src.toNat s.args.len.toNat = .ok message ∧
      s.buf.readBytes s.args.key.toNat s.args.klen.toNat = .ok key ∧ 4096 < s.args.dst.toNat + 20) :=
  ⟨by decide, ⟨withKey 4096 1 State.reset, by decide, by decide⟩,
   ⟨withKey 1 2 (withArgs 0 3 4077 (loaded abc)), [0x62, 0x63], abc, by decide, by decide, by rfl, by rfl, by decide⟩⟩

/-- SRC = 4090, LEN = 7; `JBSW1`; `A`; the empty secret with DST = 4097 (V-B32). -/
theorem witness_B32DecFailuresInOrder :
    (4096 < (withArgs 4090 7 0 State.reset).args.src.toNat + (withArgs 4090 7 0 State.reset).args.len.toNat) ∧
    (∃ (s : State) (secret : List Byte) (i : Nat), s.args.src.toNat + s.args.len.toNat ≤ 4096 ∧
      s.buf.readBytes s.args.src.toNat s.args.len.toNat = .ok secret ∧ b32Values 0 secret = .error i) ∧
    (∃ (s : State) (secret : List Byte) (vs : List (BitVec 5)), s.args.src.toNat + s.args.len.toNat ≤ 4096 ∧
      s.buf.readBytes s.args.src.toNat s.args.len.toNat = .ok secret ∧ b32Values 0 secret = .ok vs ∧
      vs.length % 8 = 1) ∧
    (∃ (s : State) (secret : List Byte) (vs : List (BitVec 5)), s.args.src.toNat + s.args.len.toNat ≤ 4096 ∧
      s.buf.readBytes s.args.src.toNat s.args.len.toNat = .ok secret ∧ b32Values 0 secret = .ok vs ∧
      ¬(vs.length % 8 = 1 ∨ vs.length % 8 = 3 ∨ vs.length % 8 = 6) ∧ 4096 < s.args.dst.toNat + 5 * vs.length / 8) :=
  ⟨by decide, ⟨withArgs 0 5 0 (loaded badSecret), badSecret, 4, by decide, by rfl, by rfl⟩,
   ⟨withArgs 0 1 0 (loaded [0x41]), [0x41], [0], by decide, by rfl, by rfl, by decide⟩,
   ⟨withArgs 0 0 4097 State.reset, [], [], by decide, by rfl, by rfl, by decide, by decide⟩⟩

theorem witness_TruncFailuresInOrder :
    ¬(1 ≤ (15 : BitVec 4).toNat ∧ (15 : BitVec 4).toNat ≤ 9) ∧
    (1 ≤ (1 : BitVec 4).toNat ∧ (1 : BitVec 4).toNat ≤ 9 ∧ 4096 < (withArgs 4077 0 0 State.reset).args.src.toNat + 20) := by
  decide

/-- "ab" is written and byte 2 is not: an unwritten byte after written ones, in a region of each size named. -/
theorem witness_UnwrittenSourceByteFaults :
    ∀ n ∈ ([64, 20, 3] : List Nat), ∃ s : State,
      s.args.src.toNat + n ≤ 4096 ∧ s.args.src.toNat ≤ 2 ∧ 2 < s.args.src.toNat + n ∧ s.buf.read 2 = none ∧
      (∀ j, s.args.src.toNat ≤ j → j < 2 → s.buf.read j ≠ none) ∧ s.args.len.toNat = 3 ∧
      s.args.key.toNat + s.args.klen.toNat ≤ 4096 := by
  intro n hn
  refine ⟨withArgs 0 3 0 (loaded [0x61, 0x62]), ?_, by decide, ?_, by decide, ?_, by decide, by decide⟩
  · have h : ∀ n ∈ ([64, 20, 3] : List Nat), (withArgs 0 3 0 (loaded [0x61, 0x62])).args.src.toNat + n ≤ 4096 := by decide
    exact h n hn
  · have h : ∀ n ∈ ([64, 20, 3] : List Nat), 2 < (withArgs 0 3 0 (loaded [0x61, 0x62])).args.src.toNat + n := by decide
    exact h n hn
  · intro j _ hj
    have h : ∀ j, j < 2 → (withArgs 0 3 0 (loaded [0x61, 0x62])).buf.read j ≠ none := by decide
    exact h j hj

/-- A readable message whose key region ends with an unwritten byte. -/
theorem witness_UnwrittenSourceByteFaults_key :
    ∃ (s : State) (message : List Byte), s.args.src.toNat + s.args.len.toNat ≤ 4096 ∧
      s.args.key.toNat + s.args.klen.toNat ≤ 4096 ∧
      s.buf.readBytes s.args.src.toNat s.args.len.toNat = .ok message ∧ s.args.key.toNat ≤ 2 ∧
      2 < s.args.key.toNat + s.args.klen.toNat ∧ s.buf.read 2 = none ∧
      ∀ j, s.args.key.toNat ≤ j → j < 2 → s.buf.read j ≠ none :=
  ⟨withKey 1 2 (withArgs 0 2 0 (loaded [0x61, 0x62])), [0x61, 0x62], by decide, by decide, by rfl, by decide, by decide,
    by decide, fun j _ hj => (by decide : ∀ j, j < 2 →
      (withKey 1 2 (withArgs 0 2 0 (loaded [0x61, 0x62]))).buf.read j ≠ none) j hj⟩

theorem witness_ScheduleRecurrence : abcBlock.length = 64 := by decide

/-- The sequence of working values from the IV on the padded "abc" is a function that meets every hypothesis. -/
theorem witness_CompressFollowsRounds :
    ∃ v : Nat → Chain, v 0 = sha1Iv ∧ ∀ t, t < 80 → v (t + 1) =
      { h0 := (v t).h0.rotateLeft 5 + sha1F t (v t).h1 (v t).h2 (v t).h3 + (v t).h4 + sha1K t
          + (sha1Schedule abcBlock).getD t 0
        h1 := (v t).h0
        h2 := (v t).h1.rotateLeft 30
        h3 := (v t).h2
        h4 := (v t).h3 } :=
  ⟨fun n => n.rec sha1Iv fun t x =>
    { h0 := x.h0.rotateLeft 5 + sha1F t x.h1 x.h2 x.h3 + x.h4 + sha1K t + (sha1Schedule abcBlock).getD t 0
      h1 := x.h0
      h2 := x.h1.rotateLeft 30
      h3 := x.h2
      h4 := x.h3 }, rfl, fun _ _ => rfl⟩

theorem witness_PaddingShape : 8 * abc.length < 2 ^ 64 := by decide

/-- The padded "abc" is one block. -/
theorem witness_StreamedBlocksGiveDigest :
    ∃ (blocks : List (List Byte)) (s t : State), (∀ b ∈ blocks, b.length = 64) ∧ blocks.flatten = sha1Pad abc ∧
      exec .sha1Init s = .next t :=
  ⟨[abcBlock], State.reset, _, by decide, by decide +kernel, rfl⟩

/-- A key of 64 bytes is used as it stands and one of 65 bytes is not. -/
theorem witness_HmacKeyBlockShape :
    (List.replicate 64 (0x01 : Byte)).length ≤ 64 ∧ 64 < (List.replicate 65 (0x01 : Byte)).length := by decide

theorem witness_HmacConstruction :
    ∃ (key ipad opad : List Byte), ipad.length = 64 ∧ opad.length = 64 ∧
      (∀ j, j < 64 → ipad.getD j 0 = (hmacKeyBlock key).getD j 0 ^^^ 0x36) ∧
      (∀ j, j < 64 → opad.getD j 0 = (hmacKeyBlock key).getD j 0 ^^^ 0x5c) :=
  ⟨[], List.replicate 64 0x36, List.replicate 64 0x5c, by decide, by decide, by decide +kernel, by decide +kernel⟩

theorem witness_HmacIgnoresTrailingZeros : ([] : List Byte).length + 64 ≤ 64 := by decide

/-- `0` is invalid at index 0 of `0AAAAAAA` (X5). -/
theorem witness_Base32FirstInvalid :
    b32Class (([0x30, 0x41] : List Byte).getD 0 0) = .invalid ∧ 0x80 ≤ (0xC1 : Byte).toNat := by decide

/-- The canonical encoding of "f" is `MY======` (V-B32), loaded at 0. -/
theorem witness_Base32RoundTrip :
    ∃ (s : State) (bytes : List Byte), s.args.src.toNat + s.args.len.toNat ≤ 4096 ∧
      s.buf.readBytes s.args.src.toNat s.args.len.toNat = .ok (b32Encode bytes) ∧
      s.args.dst.toNat + bytes.length = 4096 ∧
      b32Encode bytes = [0x4D, 0x59, 0x3D, 0x3D, 0x3D, 0x3D, 0x3D, 0x3D] :=
  ⟨withArgs 0 8 4095 (loaded [0x4D, 0x59, 0x3D, 0x3D, 0x3D, 0x3D, 0x3D, 0x3D]), [0x66], by decide, by rfl,
    by decide, by decide +kernel⟩

theorem witness_ReadsAndReadOnlyWritesHaveNoEffect : State.reset.rst = false ∧ Reg.T_OFF ∈ readOnlyRegs := by decide

/-- Not served: 0x1C, 0x3C, 0x64, a byte of a register, a misaligned word, a size of 2. Served: 0x60 and the last word and
byte of BUF. -/
theorem witness_ErrorResponsesChangeNothing :
    ¬Served { kind := .read, addr := 0x001C, size := 4, wdata := 0 } ∧
    ¬Served { kind := .read, addr := 0x003C, size := 4, wdata := 0 } ∧
    ¬Served { kind := .write, addr := 0x0064, size := 4, wdata := 0 } ∧
    ¬Served { kind := .read, addr := 0x0010, size := 1, wdata := 0 } ∧
    ¬Served { kind := .write, addr := 0x1002, size := 4, wdata := 0 } ∧
    ¬Served { kind := .read, addr := 0x1000, size := 2, wdata := 0 } ∧
    Served { kind := .read, addr := 0x0060, size := 4, wdata := 0 } ∧
    Served { kind := .write, addr := 0x1FFC, size := 4, wdata := 0 } ∧
    Served { kind := .write, addr := 0x1FFF, size := 1, wdata := 0 } := by
  unfold Served
  refine ⟨?_, ?_, ?_, ?_, ?_, ?_, ?_, ?_, ?_⟩ <;> decide

/-- A written byte, four written bytes, and an unwritten byte behind a written one. -/
theorem witness_BufReadsAreLittleEndian :
    (loaded [0x61, 0x62, 0x63, 0x64]).buf.read 0 = some 0x61 ∧ (loaded [0x61, 0x62, 0x63, 0x64]).buf.read 1 = some 0x62 ∧
    (loaded [0x61, 0x62, 0x63, 0x64]).buf.read 2 = some 0x63 ∧ (loaded [0x61, 0x62, 0x63, 0x64]).buf.read 3 = some 0x64 ∧
    (loaded [0x61]).buf.read 1 = none ∧ (∀ k, 0 ≤ k → k < 1 → (loaded [0x61]).buf.read k ≠ none) ∧
    State.reset.buf.read 4095 = none := by
  refine ⟨by decide, by decide, by decide, by decide, by decide, ?_, by decide⟩
  intro k _ hk
  have : k = 0 := by omega
  subst this
  decide

/-- The last byte and the last word of BUF, while idle. -/
theorem witness_BufWritesStoreBytes :
    State.reset.rst = false ∧ State.reset.status.busy = false ∧ 4095 + 1 ≤ 4096 ∧ 4092 % 4 = 0 ∧ 4092 + 4 ≤ 4096 := by
  decide

/-- A register and the last byte of BUF, while a command is pending. -/
theorem witness_PendingWritesAreDropped :
    (pending 0 1 [] State.reset).rst = false ∧ (pending 0 1 [] State.reset).status.busy = true ∧
    Reg.H4 ∈ operandRegs ∧ (0x0060 : BitVec 13).toNat = regOffset .H4 ∧ 0x1000 ≤ (0x1FFF : BitVec 13).toNat ∧
    Reg.RESULT ∈ readOnlyRegs := by decide

/-- The two clauses of a CTRL write. -/
theorem witness_CtrlWriteAndSoftReset :
    (0x7FFFFFFF : Word).getLsbD 31 = false ∧ (0x80000003 : Word).getLsbD 31 = true ∧ State.reset.rst = false := by decide

/-- Idle with an ILLEGAL word, and pending. -/
theorem witness_CmdWriteIssues :
    State.reset.rst = false ∧ State.reset.status.busy = false ∧ (∃ e, decode 0x00000008 = .error e) ∧
    (pending 0 1 [] State.reset).rst = false ∧ (pending 0 1 [] State.reset).status.busy = true :=
  ⟨rfl, rfl, ⟨.reservedOpcode, rfl⟩, rfl, rfl⟩

theorem witness_OperandRegistersReadBack :
    State.reset.rst = false ∧ State.reset.status.busy = false ∧ Reg.SRC ∈ operandRegs ∧ Reg.H4 ∈ operandRegs := by decide

theorem witness_RstHoldsHardReset : inReset.rst = true ∧ State.reset.rst = false := by decide

/-- A digest in the last 20 bytes of BUF, and its last word. -/
theorem witness_DigestWordsReadSwapped :
    ∃ (s : State) (base k : Nat) (h : Chain), s.rst = false ∧ base % 4 = 0 ∧ base + 20 = 4096 ∧ k = 4 ∧
      s.buf.readBytes base 20 = .ok (digestBytes h) :=
  ⟨{ State.reset with buf := Memory.writeBytes [] 4076 (digestBytes sha1Iv) }, 4076, 4, sha1Iv, rfl, by decide, by decide,
    rfl, Memory.readBytes_writeBytes [] 4076 (digestBytes sha1Iv)⟩

/-- Any bytes that end at the end of BUF, in groups of four. -/
theorem witness_PseudoInstructionsExpand :
    ∃ (i : Nat) (bs : List Byte), i % 4 = 0 ∧ bs.length % 4 = 0 ∧ bs.length ≠ 0 ∧ i + bs.length = 4096 :=
  ⟨4092, [0x61, 0x62, 0x63, 0x64], by decide, by decide, by decide, by decide⟩

/-- An ASCII text that ends at the end of BUF. -/
theorem witness_PseudoInstructionsExpand_text :
    ∃ (i : Nat) (text : String), (∀ c ∈ text.toList, c.toNat < 128) ∧ text.toList.length ≠ 0 ∧
      i + text.toList.length = 4096 := by
  refine ⟨4093, String.ofList ['J', 'B', 'S'], ?_⟩
  rw [String.toList_ofList]
  refine ⟨fun c hc => ?_, by decide, by decide⟩
  rcases List.mem_cons.1 hc with rfl | hc
  · decide
  rcases List.mem_cons.1 hc with rfl | hc
  · decide
  rw [List.mem_singleton.1 hc]
  decide

/-- The first and last round of each range of R150. -/
theorem witness_RoundFunctionsAndConstants :
    (0 < 20 ∧ 19 < 20) ∧ (20 ≤ 20 ∧ 39 < 40) ∧ (40 ≤ 40 ∧ 59 < 60) ∧ (60 ≤ 60 ∧ 79 < 80) := by decide

/-- The last byte of the last word. -/
theorem witness_DigestBytesBigEndian : ∃ k j : Nat, k < 5 ∧ j < 4 ∧ 4 * k + j = 19 := ⟨4, 3, by decide⟩

/-- The ends of each range of R120, and the bytes just outside them. -/
theorem witness_Base32Classes :
    ([0x41, 0x5A, 0x61, 0x7A, 0x32, 0x37] : List Byte).map b32Class =
      [.value 0, .value 25, .value 0, .value 25, .value 26, .value 31] ∧
    ([0x40, 0x5B, 0x60, 0x7B, 0x31, 0x38, 0x3C, 0x3E, 0x00, 0xFF] : List Byte).all (fun c => b32Class c == .invalid) = true ∧
    b32Class 0x3D = .padding := by decide

/-- A block of 8 values and a last block of 7. -/
theorem witness_Base32Packing :
    (List.replicate 8 (31 : BitVec 5)).length = 8 ∧ (List.replicate 7 (31 : BitVec 5)).length < 8 := by decide

theorem witness_StatusWriteClearsOnes : State.reset.rst = false ∧ (pending 0 1 [] State.reset).rst = false := by decide

theorem witness_TransactionsInResetChangeNothing : inReset.rst = true := by decide

theorem witness_IrqIsTheLevel :
    ({ State.reset with
        ctrl := ⟨true, false⟩
        status := { State.reset.status with done := true } } : State).irq = true ∧
    ({ State.reset with
        ctrl := ⟨false, true⟩
        status := { State.reset.status with done := true } } : State).irq = false := by decide

end Sys2Proof.Tests
end

section
/-!
SUPPORT. Everything a completion can do, in one inversion lemma (`exec_next`), and the invariant of the engine: what each
operation keeps of it, then completions, transactions and resets, then a step.
-/

namespace Sys2Proof.Machine

/-! ### What a completion does -/

/-- The completion of a decoded command fails: with a cause other than ILLEGAL_CMD, and a detail that R201 gives for it. -/
def FailsWith (s t : State) : Prop :=
  ∃ c info, c ≠ .illegalCmd ∧ t = raiseCause c info s ∧ InfoFitsCause t

/-- The writes of a command (R82): `u` is `s` with the outputs of command `i` written, before the end of the completion. -/
def Writes (i : Instr) (s u : State) : Prop :=
  match i with
  | .nop => u = s
  | .sha1Init => u = setChain sha1Iv s
  | .sha1Block => ∃ h, u = setChain h s
  | .sha1Digest | .hmacSha1 => ∃ h, s.args.dst.toNat + 20 ≤ Config.bufBytes ∧ u = storeDigest h s
  | .ctrEnc | .b32Dec =>
    ∃ bs, s.args.dst.toNat + bs.length ≤ Config.bufBytes ∧ u = setOutLen bs.length (storeBytes s.args.dst bs s)
  | .trunc d => ∃ mac, d.toNat ≤ 9 ∧ u = setTrunc (truncate mac d.toNat) s

theorem failsWith_bounds {which : Word} (s : State) (h : 1 ≤ which.toNat ∧ which.toNat ≤ 3) :
    FailsWith s (raiseCause .bounds which s) :=
  ⟨_, _, by decide, rfl, .inr (.inr (.inl ⟨rfl, h⟩))⟩

theorem failsWith_sourceRegion (s : State) : FailsWith s (raiseCause .bounds sourceRegion s) :=
  failsWith_bounds s (by decide)

theorem failsWith_keyRegion (s : State) : FailsWith s (raiseCause .bounds keyRegion s) :=
  failsWith_bounds s (by decide)

theorem failsWith_destRegion (s : State) : FailsWith s (raiseCause .bounds destRegion s) :=
  failsWith_bounds s (by decide)

/-- The index of an invalid byte is a position of the region, which is inside BUF (R122). -/
theorem failsWith_invalidChar {i : Nat} {base : Word} {n : Nat} {secret : List Byte} (s : State)
    (hread : s.buf.readBytes base.toNat n = .ok secret) (hin : base.toNat + n ≤ Config.bufBytes)
    (hv : b32Values 0 secret = .error i) : FailsWith s (raiseCause .invalidChar (BitVec.ofNat 32 i) s) := by
  have hlen := Memory.length_of_readBytes hread
  obtain ⟨-, hi⟩ := b32Values_error_lt hv
  have hsize : Config.bufBytes = 4096 := rfl
  refine ⟨_, _, by decide, rfl, .inr (.inr (.inr (.inl ⟨rfl, ?_⟩)))⟩
  simp only [raiseCause_errInfo, BitVec.toNat_ofNat]
  omega

theorem failsWith_invalidLength {r : Nat} (s : State) (h : b32BadCount r = true) :
    FailsWith s (raiseCause .invalidLength (BitVec.ofNat 32 r) s) := by
  refine ⟨_, _, by decide, rfl, .inr (.inr (.inr (.inr (.inl ⟨rfl, ?_⟩))))⟩
  simp only [b32BadCount, Bool.or_eq_true, beq_iff_eq] at h
  rcases h with (rfl | rfl) | rfl <;> simp

theorem failsWith_digitsRange {d : BitVec 4} (s : State) (h : ¬(1 ≤ d.toNat ∧ d.toNat ≤ 9)) :
    FailsWith s (raiseCause .digitsRange (d.setWidth 32) s) := by
  have hd : (d.setWidth 32).toNat = d.toNat := BitVec.toNat_setWidth_of_le (by decide)
  have hlt : d.toNat < 16 := d.isLt
  refine ⟨_, _, by decide, rfl, .inr (.inr (.inr (.inr (.inr ⟨rfl, ?_⟩))))⟩
  by_cases h0 : d = 0
  · exact .inl (by simp [h0])
  · have hpos : d.toNat ≠ 0 := fun h => h0 (BitVec.eq_of_toNat_eq h)
    exact .inr (by simp only [raiseCause_errInfo, hd]; omega)

/-- Everything a completion can do: fail and change nothing but the report, or make the command's writes and succeed
(R104, R105). -/
theorem exec_next {i : Instr} {s t : State} (h : exec i s = .next t) :
    FailsWith s t ∨ ∃ u, Writes i s u ∧ t = succeed u := by
  cases i with
  | nop => exact .inr ⟨s, rfl, (Host.Outcome.next.inj h).symm⟩
  | sha1Init => exact .inr ⟨_, rfl, (Host.Outcome.next.inj h).symm⟩
  | sha1Block =>
    obtain rfl | ⟨block, -, -, rfl⟩ := execSha1Block_next h
    · exact .inl (failsWith_sourceRegion s)
    · exact .inr ⟨_, ⟨_, rfl⟩, rfl⟩
  | sha1Digest =>
    obtain rfl | rfl | ⟨message, -, -, hd, rfl⟩ := execSha1Digest_next h
    · exact .inl (failsWith_sourceRegion s)
    · exact .inl (failsWith_destRegion s)
    · exact .inr ⟨_, ⟨_, hd, rfl⟩, rfl⟩
  | hmacSha1 =>
    obtain rfl | rfl | rfl | ⟨message, key, -, -, -, -, hd, rfl⟩ := execHmacSha1_next h
    · exact .inl (failsWith_sourceRegion s)
    · exact .inl (failsWith_keyRegion s)
    · exact .inl (failsWith_destRegion s)
    · exact .inr ⟨_, ⟨_, hd, rfl⟩, rfl⟩
  | ctrEnc =>
    obtain rfl | ⟨hd, rfl⟩ := execCtrEnc_next h
    · exact .inl (failsWith_destRegion s)
    · exact .inr ⟨_, ⟨be64Bytes (counterOperand s.args), hd, rfl⟩, rfl⟩
  | b32Dec =>
    obtain rfl | ⟨secret, hread, hin, ⟨i, hv, rfl⟩ | ⟨vs, -, ⟨hc, rfl⟩ | ⟨-, rfl | ⟨hd, rfl⟩⟩⟩⟩ := execB32Dec_next h
    · exact .inl (failsWith_sourceRegion s)
    · exact .inl (failsWith_invalidChar s hread hin hv)
    · exact .inl (failsWith_invalidLength s hc)
    · exact .inl (failsWith_destRegion s)
    · rw [← b32Bytes_length] at hd ⊢
      exact .inr ⟨_, ⟨_, hd, rfl⟩, rfl⟩
  | trunc d =>
    obtain ⟨hd, rfl⟩ | rfl | ⟨mac, -, -, ⟨-, hd⟩, rfl⟩ := execTrunc_next h
    · exact .inl (failsWith_digitsRange s hd)
    · exact .inl (failsWith_sourceRegion s)
    · exact .inr ⟨_, ⟨mac, hd, rfl⟩, rfl⟩

/-! ### The invariant: what each operation keeps of it -/

/-- The clause on the reset level is empty while `rst` is not asserted. -/
theorem rstHolds_of_rst_low {s : State} (h : s.rst = false) (hr : s.rst = true) : InHardReset s := by
  rw [h] at hr
  cases hr

/-- Whatever happens to the host and to the model's own fields, the engine keeps its invariant. -/
theorem Inv.of_sameEngine {s t : State} (h : Inv s) (he : SameEngine s t) : Inv t := by
  have key : ∀ host sched, Inv { s with host := host, sched := sched } := fun host sched =>
    { h with
      rstHolds := fun hr => by
        have hs : s = hardReset s := h.rstHolds hr
        rw [InHardReset, hs]
        rfl }
  rw [he]
  exact key _ _

theorem inv_reset : Inv State.reset where
  bufCanonical := rfl
  bufInside := rfl
  resultRange := by decide
  codeRange := by decide
  outLenRange := by decide
  notDoneAndErr := by decide
  pendingClean := by decide
  doneClean := by decide
  errHasCause := by decide
  infoFits := .inl ⟨rfl, rfl⟩
  rstHolds := fun _ => rfl

/-- The engine in its hard-reset state meets the invariant, whatever the `rst` level, the host and the model's fields. -/
theorem inv_of_inHardReset {s : State} (h : InHardReset s) : Inv s := by
  have key : ∀ rst host sched, Inv { State.reset with rst := rst, host := host, sched := sched } := fun _ _ _ =>
    { inv_reset with rstHolds := fun _ => rfl }
  rw [h]
  exact key _ _ _

theorem causeCode_ne_zero (c : Cause) : causeCode c ≠ 0 := by cases c <;> decide

@[simp] theorem statusAfterW1C_busy (st : Status) (w : Word) : (statusAfterW1C st w).busy = st.busy := rfl
@[simp] theorem statusAfterW1C_done (st : Status) (w : Word) :
    (statusAfterW1C st w).done = (st.done && !w.getLsbD 1) := rfl
@[simp] theorem statusAfterW1C_err (st : Status) (w : Word) :
    (statusAfterW1C st w).err = (st.err && !w.getLsbD 2) := rfl
@[simp] theorem statusAfterW1C_ovr (st : Status) (w : Word) :
    (statusAfterW1C st w).ovr = (st.ovr && !w.getLsbD 3) := rfl

section RstLow
variable {s : State} (h : Inv s) (hr : s.rst = false)
include h hr

theorem Inv.setChain (c : Chain) : Inv (setChain c s) :=
  { h with rstHolds := rstHolds_of_rst_low hr }

theorem Inv.setArgs (a : Args) : Inv { s with args := a } :=
  { h with rstHolds := rstHolds_of_rst_low hr }

theorem Inv.setCtrl (c : Ctrl) : Inv { s with ctrl := c } :=
  { h with rstHolds := rstHolds_of_rst_low hr }

theorem Inv.writeBytes {i : Nat} {bs : List Byte} (hi : i + bs.length ≤ Config.bufBytes) :
    Inv { s with buf := s.buf.writeBytes i bs } :=
  { h with
    bufCanonical := Memory.wf_writeBytes h.bufCanonical
    bufInside := Memory.inside_writeBytes hi h.bufInside
    rstHolds := rstHolds_of_rst_low hr }

theorem Inv.storeBytes {base : Word} {bs : List Byte} (hd : base.toNat + bs.length ≤ Config.bufBytes) :
    Inv (storeBytes base bs s) :=
  h.writeBytes hr hd

theorem Inv.setOutLen {n : Nat} (hn : n ≤ Config.bufBytes) : Inv (setOutLen n s) :=
  { h with
    outLenRange := Nat.le_trans (Nat.mod_le n _) hn
    rstHolds := rstHolds_of_rst_low hr }

theorem Inv.storeDigest {c : Chain} (hd : s.args.dst.toNat + 20 ≤ Config.bufBytes) : Inv (storeDigest c s) := by
  have hlen := digestBytes_length c
  unfold Machine.storeDigest
  generalize digestBytes c = bs at hlen ⊢
  exact ((h.storeBytes hr (by rwa [hlen])).setChain hr c).setOutLen hr (by decide)

theorem Inv.setTrunc {mac : List Byte} {d : Nat} (hd : d ≤ 9) : Inv (setTrunc (truncate mac d) s) :=
  { h with
    resultRange := truncValue_lt mac _
    codeRange := by
      have hle : (10 : Nat) ^ d ≤ 10 ^ 9 := Nat.pow_le_pow_right (by decide) hd
      have hlt : (truncValue mac (truncOffset mac).toNat).toNat % 10 ^ d < 10 ^ d := Nat.mod_lt _ (Nat.pow_pos (by decide))
      simp only [setTrunc_trunc, truncate, truncCode_toNat _ hd]
      omega
    rstHolds := rstHolds_of_rst_low hr }

/-- The writes of every command keep the invariant. -/
theorem Inv.of_writes {i : Instr} {u : State} (hw : Writes i s u) : Inv u := by
  cases i with
  | nop => exact hw ▸ h
  | sha1Init => exact hw ▸ h.setChain hr _
  | sha1Block =>
    obtain ⟨c, rfl⟩ := hw
    exact h.setChain hr c
  | sha1Digest | hmacSha1 =>
    obtain ⟨c, hd, rfl⟩ := hw
    exact h.storeDigest hr hd
  | ctrEnc | b32Dec =>
    obtain ⟨bs, hd, rfl⟩ := hw
    exact (h.storeBytes hr hd).setOutLen hr (by omega)
  | trunc d =>
    obtain ⟨mac, hd, rfl⟩ := hw
    exact h.setTrunc hr hd

theorem Inv.statusAfterDrop : Inv { s with status := statusAfterDrop s.status } :=
  { h with rstHolds := rstHolds_of_rst_low hr }

theorem Inv.statusAfterW1C (w : Word) : Inv { s with status := statusAfterW1C s.status w } :=
  { h with
    notDoneAndErr := fun ⟨hd, he⟩ => h.notDoneAndErr ⟨(Bool.and_eq_true_iff.mp hd).1, (Bool.and_eq_true_iff.mp he).1⟩
    pendingClean := fun hb => by
      obtain ⟨hd, he, hcause, hinfo⟩ := h.pendingClean hb
      exact ⟨by simp [hd], by simp [he], hcause, hinfo⟩
    doneClean := fun hd => h.doneClean ((Bool.and_eq_true_iff.mp hd).1)
    errHasCause := fun he => h.errHasCause ((Bool.and_eq_true_iff.mp he).1)
    rstHolds := rstHolds_of_rst_low hr }

theorem Inv.issue (w : Word) : Inv (issue w s) :=
  { h with
    notDoneAndErr := by simp
    pendingClean := fun _ => ⟨rfl, rfl, rfl, rfl⟩
    doneClean := by simp
    errHasCause := by simp
    infoFits := .inl ⟨rfl, rfl⟩
    rstHolds := rstHolds_of_rst_low hr }

theorem Inv.softReset : Inv (softReset s) :=
  { inv_of_inHardReset (s := hardReset s) rfl with
    bufCanonical := h.bufCanonical
    bufInside := h.bufInside
    rstHolds := rstHolds_of_rst_low hr }

theorem Inv.unlessBusy {u : State} (hu : Inv u) : Inv (unlessBusy s u) := by
  cases hb : s.status.busy with
  | true => exact unlessBusy_of_busy hb ▸ h.statusAfterDrop hr
  | false => exact unlessBusy_of_idle hb ▸ hu

theorem Inv.writeReg (r : Reg) (w : Word) : Inv (writeReg r w s) := by
  cases hb : s.status.busy with
  | true =>
    rcases writeReg_of_busy (r := r) (w := w) hb with e | e | e | e | e <;> rw [e]
    · exact h
    · exact h.statusAfterDrop hr
    · exact h.statusAfterW1C hr w
    · exact h.setCtrl hr _
    · exact h.softReset hr
  | false =>
    rcases writeReg_of_idle (r := r) (w := w) hb with e | e | e | e | e | ⟨a, e⟩ | ⟨c, e⟩ <;> rw [e]
    · exact h
    · exact h.issue hr w
    · exact h.statusAfterW1C hr w
    · exact h.setCtrl hr _
    · exact h.softReset hr
    · exact h.setArgs hr a
    · exact h.setChain hr c

theorem Inv.writeTarget {a n : Nat} {target : Target} (w : Word) (hres : resolve a n = some target) :
    Inv (writeTarget target w s) := by
  cases target with
  | reg r => exact h.writeReg hr r w
  | bytes i k =>
    obtain ⟨-, -, hi, -⟩ := resolve_bytes_inv hres
    exact h.unlessBusy hr (h.writeBytes hr (by rwa [busBytes_length]))

end RstLow

/-! ### The invariant: completions, transactions and resets -/

section Completion
variable {s : State} (h : Inv s) (hb : s.status.busy = true) (hr : s.rst = false)
include h hb hr

/-- A failed completion keeps the invariant where the detail fits the cause: the command was pending, so DONE is 0. -/
theorem Inv.raiseCause {c : Cause} {info : Word} (hfit : InfoFitsCause (raiseCause c info s)) :
    Inv (raiseCause c info s) :=
  have hdone : s.status.done = false := (h.pendingClean hb).1
  { h with
    notDoneAndErr := by simp [hdone]
    pendingClean := by simp
    doneClean := by simp [hdone]
    errHasCause := fun _ => causeCode_ne_zero c
    infoFits := hfit
    rstHolds := rstHolds_of_rst_low hr }

/-- A successful completion keeps the invariant: the command was pending, so ERR and ERR_CAUSE are 0. -/
theorem Inv.succeed : Inv (succeed s) := by
  obtain ⟨-, herr, hcause, -⟩ := h.pendingClean hb
  exact
    { h with
      notDoneAndErr := by simp [herr]
      pendingClean := by simp
      doneClean := fun _ => hcause
      rstHolds := rstHolds_of_rst_low hr }

end Completion

/-- The writes of a command leave STATUS and `rst` alone. -/
theorem Writes.status_rst {i : Instr} {s u : State} (hw : Writes i s u) : u.status = s.status ∧ u.rst = s.rst := by
  cases i with
  | nop | sha1Init =>
    cases hw
    exact ⟨rfl, rfl⟩
  | sha1Block =>
    obtain ⟨c, rfl⟩ := hw
    exact ⟨rfl, rfl⟩
  | sha1Digest | hmacSha1 =>
    obtain ⟨c, -, rfl⟩ := hw
    exact ⟨storeDigest_status c s, storeDigest_rst c s⟩
  | ctrEnc | b32Dec =>
    obtain ⟨bs, -, rfl⟩ := hw
    exact ⟨rfl, rfl⟩
  | trunc d =>
    obtain ⟨mac, -, rfl⟩ := hw
    exact ⟨rfl, rfl⟩

theorem exec_keeps_inv {i : Instr} {s t : State} (h : Inv s) (hb : s.status.busy = true) (hr : s.rst = false)
    (he : exec i s = .next t) : Inv t := by
  obtain ⟨c, info, -, rfl, hfit⟩ | ⟨u, hw, rfl⟩ := exec_next he
  · exact h.raiseCause hb hr hfit
  · obtain ⟨hstatus, hrst⟩ := hw.status_rst
    exact (h.of_writes hr hw).succeed (hstatus ▸ hb) (hrst ▸ hr)

theorem complete_keeps_inv {s t : State} (h : Inv s) (hb : s.status.busy = true) (hr : s.rst = false)
    (hc : complete s = .next t) : Inv t := by
  obtain ⟨i, -, he⟩ | ⟨-, -, rfl⟩ := complete_next hc
  · exact exec_keeps_inv h hb hr he
  · exact h.raiseCause hb hr (.inr (.inl ⟨rfl, rfl⟩))

theorem transaction_keeps_inv {r : Request} {s t : State} (h : Inv s) (ht : transaction r s = .next t) : Inv t := by
  obtain ⟨-, rfl⟩ | ⟨-, -, rfl⟩ | ⟨-, -, -, -, -, -, rfl⟩ | ⟨hr, -, target, hres, rfl⟩ := transaction_next ht
  · exact h.of_sameEngine rfl
  · exact h.of_sameEngine rfl
  · exact h.of_sameEngine rfl
  · have htick : Inv (tick s) := h.of_sameEngine rfl
    exact (htick.writeTarget hr r.wdata hres).of_sameEngine rfl

theorem releaseRst_keeps_inv {s : State} (h : Inv s) : Inv (releaseRst s) := by
  unfold releaseRst
  split
  · exact inv_of_inHardReset rfl
  · exact h

theorem perform_keeps_inv {a : HostAction} {rest : List HostAction} {s t : State} (h : Inv s)
    (hp : perform a rest s = .next t) : Inv t := by
  have hset : Inv (setAgenda rest s) := h.of_sameEngine rfl
  obtain ⟨r, -, ht⟩ | ⟨-, u, ht, rfl | rfl⟩ | ⟨-, rfl⟩ | ⟨-, rfl⟩ := perform_next hp
  · exact transaction_keeps_inv hset ht
  · exact transaction_keeps_inv h ht
  · exact (transaction_keeps_inv h ht).of_sameEngine rfl
  · exact inv_of_inHardReset rfl
  · exact releaseRst_keeps_inv hset

/-- Settles O8: a step is a completion, nothing, or an entry of the agenda, and each of them keeps the invariant. -/
theorem stepKeepsInv : Obligations.StepKeepsInv := by
  unfold Obligations.StepKeepsInv
  intro s t h hs
  obtain ⟨hdue, hc⟩ | ⟨-, -, rfl⟩ | ⟨-, a, rest, -, hp⟩ := step_next hs
  · obtain ⟨hb, hr, -⟩ := completionDue_iff.mp hdue
    exact complete_keeps_inv h hb hr hc
  · exact h
  · exact perform_keeps_inv h hp

/-- Settles O9: `inv_reset`, checked clause by clause. -/
theorem resetMeetsInv : Obligations.ResetMeetsInv := inv_reset

end Sys2Proof.Machine
end
section
/-!
SUPPORT. The stops of the machine: a predicate on outcomes that every check, command and transaction meets.
-/

namespace Sys2Proof.Machine

/-! ### Stops -/

/-- The outcome is no refusal, and a fault only at an unwritten position of BUF (R41, R107). -/
def StopsOnlyUnwritten (m : Memory) : Result → Prop
  | .next _ => True
  | .fault (.uninitRead i) => m.read i = none ∧ i < Config.bufBytes
  | .refused _ => False

theorem readBytes_error_unwritten {m : Memory} {a n i : Nat} (hin : a + n ≤ Config.bufBytes)
    (h : m.readBytes a n = .error i) : m.read i = none ∧ i < Config.bufBytes := by
  obtain ⟨-, hi, hread, -⟩ := Memory.readBytes_error_iff.mp h
  exact ⟨hread, by omega⟩

section Checks
variable {m : Memory} {base : Word} {n : Nat} {s : State}

theorem stopsOnlyUnwritten_checkRegion {which : Word} {k : Result}
    (h : base.toNat + n ≤ Config.bufBytes → StopsOnlyUnwritten m k) :
    StopsOnlyUnwritten m (checkRegion which base n s k) := by
  by_cases hb : base.toNat + n ≤ Config.bufBytes
  · rw [checkRegion_of_inBounds hb]
    exact h hb
  · rw [checkRegion_of_outside (by omega)]
    trivial

theorem stopsOnlyUnwritten_checkDigits {d : BitVec 4} {k : Result} (h : StopsOnlyUnwritten m k) :
    StopsOnlyUnwritten m (checkDigits d s k) := by
  by_cases hd : 1 ≤ d.toNat ∧ d.toNat ≤ 9
  · rwa [checkDigits_of_legal hd]
  · rw [checkDigits_of_illegal hd]
    trivial

/-- A region that is read is in bounds, so an unwritten byte of it is a position of BUF. -/
theorem stopsOnlyUnwritten_withBytes {k : List Byte → Result} (hin : base.toNat + n ≤ Config.bufBytes)
    (h : ∀ bs, StopsOnlyUnwritten s.buf (k bs)) : StopsOnlyUnwritten s.buf (withBytes base n s k) := by
  cases hread : s.buf.readBytes base.toNat n with
  | ok bs =>
    rw [withBytes_of_read hread]
    exact h bs
  | error i =>
    rw [withBytes_of_unwritten hread]
    exact readBytes_error_unwritten hin hread

end Checks

theorem stopsOnlyUnwritten_execB32Dec (s : State) : StopsOnlyUnwritten s.buf (execB32Dec s) := by
  refine stopsOnlyUnwritten_checkRegion fun hin => stopsOnlyUnwritten_withBytes hin fun secret => ?_
  split
  · trivial
  · split
    · trivial
    · exact stopsOnlyUnwritten_checkRegion fun _ => trivial

theorem stopsOnlyUnwritten_exec (i : Instr) (s : State) : StopsOnlyUnwritten s.buf (exec i s) := by
  cases i with
  | nop | sha1Init => trivial
  | sha1Block =>
    exact stopsOnlyUnwritten_checkRegion fun hin => stopsOnlyUnwritten_withBytes hin fun _ => trivial
  | sha1Digest =>
    exact stopsOnlyUnwritten_checkRegion fun hin => stopsOnlyUnwritten_withBytes hin fun _ =>
      stopsOnlyUnwritten_checkRegion fun _ => trivial
  | hmacSha1 =>
    exact stopsOnlyUnwritten_checkRegion fun hin => stopsOnlyUnwritten_checkRegion fun hkey =>
      stopsOnlyUnwritten_withBytes hin fun _ => stopsOnlyUnwritten_withBytes hkey fun _ =>
      stopsOnlyUnwritten_checkRegion fun _ => trivial
  | ctrEnc => exact stopsOnlyUnwritten_checkRegion fun _ => trivial
  | b32Dec => exact stopsOnlyUnwritten_execB32Dec s
  | trunc d =>
    exact stopsOnlyUnwritten_checkDigits <| stopsOnlyUnwritten_checkRegion fun hin =>
      stopsOnlyUnwritten_withBytes hin fun _ => trivial

theorem stopsOnlyUnwritten_complete (s : State) : StopsOnlyUnwritten s.buf (complete s) := by
  unfold complete
  split
  · trivial
  · exact stopsOnlyUnwritten_exec _ s

/-- A read of a resolved target fails only at an unwritten position of BUF. -/
theorem readTarget_error_unwritten {a n i : Nat} {target : Target} {s : State} (hres : resolve a n = some target)
    (h : readTarget target s = .error i) : s.buf.read i = none ∧ i < Config.bufBytes := by
  cases target with
  | reg r => cases h
  | bytes j k =>
    obtain ⟨-, -, hin, -⟩ := resolve_bytes_inv hres
    simp only [readTarget] at h
    split at h
    · cases h
    · cases h
      exact readBytes_error_unwritten hin ‹_›

theorem stopsOnlyUnwritten_transaction (r : Request) (s : State) : StopsOnlyUnwritten s.buf (transaction r s) := by
  unfold transaction
  split
  · trivial
  · split
    · trivial
    · split
      · split
        · exact readTarget_error_unwritten ‹_› ‹_›
        · trivial
      · trivial

theorem stopsOnlyUnwritten_perform (a : HostAction) (rest : List HostAction) (s : State) :
    StopsOnlyUnwritten s.buf (perform a rest s) := by
  cases a with
  | bus r => exact stopsOnlyUnwritten_transaction r (setAgenda rest s)
  | wait =>
    have h := stopsOnlyUnwritten_transaction readStatusRequest s
    simp only [perform, waitTurn]
    cases ht : transaction readStatusRequest s with
    | next u => trivial
    | fault f => rwa [ht] at h
    | refused f => rwa [ht] at h
  | rstAssert | rstRelease => trivial

theorem stopsOnlyUnwritten_step (s : State) : StopsOnlyUnwritten s.buf (step s) := by
  unfold step
  split
  · exact stopsOnlyUnwritten_complete s
  · split
    · trivial
    · exact stopsOnlyUnwritten_perform _ _ s

/-- Settles O11: no part of a step refuses, and each of them faults only at an unwritten position of BUF. -/
theorem onlyUnwrittenReadsStop : Obligations.OnlyUnwrittenReadsStop := by
  unfold Obligations.OnlyUnwrittenReadsStop
  intro s
  have h := stopsOnlyUnwritten_step s
  constructor
  · intro r hr
    rwa [hr] at h
  · intro i hi
    rwa [hi] at h

/-! ### Which command changes which output -/

/-- A failed completion leaves every output as it was. -/
theorem FailsWith.outputs {s t : State} (h : FailsWith s t) :
    t.outLen = s.outLen ∧ t.buf = s.buf ∧ t.trunc = s.trunc ∧ t.chain = s.chain := by
  obtain ⟨c, info, -, rfl, -⟩ := h
  exact ⟨rfl, rfl, rfl, rfl⟩

theorem Writes.outLen_buf {i : Instr} {s u : State} (hw : Writes i s u)
    (hi : i ∉ ([.sha1Digest, .hmacSha1, .ctrEnc, .b32Dec] : List Instr)) : u.outLen = s.outLen ∧ u.buf = s.buf := by
  cases i with
  | nop | sha1Init => cases hw; exact ⟨rfl, rfl⟩
  | sha1Block => obtain ⟨c, rfl⟩ := hw; exact ⟨rfl, rfl⟩
  | trunc d => obtain ⟨mac, -, rfl⟩ := hw; exact ⟨rfl, rfl⟩
  | sha1Digest | hmacSha1 | ctrEnc | b32Dec => simp at hi

theorem Writes.trunc {i : Instr} {s u : State} (hw : Writes i s u) (hi : ∀ d, i ≠ .trunc d) : u.trunc = s.trunc := by
  cases i with
  | nop | sha1Init => cases hw; rfl
  | sha1Block => obtain ⟨c, rfl⟩ := hw; rfl
  | sha1Digest | hmacSha1 => obtain ⟨c, -, rfl⟩ := hw; exact storeDigest_trunc c s
  | ctrEnc | b32Dec => obtain ⟨bs, -, rfl⟩ := hw; rfl
  | trunc d => exact absurd rfl (hi d)

theorem Writes.chain {i : Instr} {s u : State} (hw : Writes i s u)
    (hi : i ∉ ([.sha1Init, .sha1Block, .sha1Digest, .hmacSha1] : List Instr)) : u.chain = s.chain := by
  cases i with
  | nop => cases hw; rfl
  | ctrEnc | b32Dec => obtain ⟨bs, -, rfl⟩ := hw; rfl
  | trunc d => obtain ⟨mac, -, rfl⟩ := hw; rfl
  | sha1Init | sha1Block | sha1Digest | hmacSha1 => simp at hi

/-- Settles O16: a failed completion changes no output, and a successful one those its command writes. -/
theorem outputsOnlyByTheirCommands : Obligations.OutputsOnlyByTheirCommands := by
  unfold Obligations.OutputsOnlyByTheirCommands
  intro i s t h
  obtain hf | ⟨u, hw, rfl⟩ := exec_next h
  · obtain ⟨hlen, hbuf, htrunc, hchain⟩ := hf.outputs
    exact ⟨fun _ => ⟨hlen, hbuf⟩, fun _ => htrunc, fun _ => hchain⟩
  · exact ⟨hw.outLen_buf, hw.trunc, hw.chain⟩

end Sys2Proof.Machine
end
section
/-!
SUPPORT. Registers: their values at reset and their fields, and what a host access of one answers and changes.
-/

namespace Sys2Proof.Machine

/-! ### What registers read as -/

/-- Settles O10, by evaluating the reset state. -/
theorem resetRegisterValues : Obligations.ResetRegisterValues :=
  ⟨rfl, rfl, by decide, rfl, rfl, rfl, rfl, rfl, fun _ => rfl, rfl, rfl⟩

theorem versionValue_major_minor : versionValue.toNat / 2 ^ 16 = 0 ∧ versionValue.toNat % 2 ^ 16 = 1 := by decide

/-- Settles O45: neither register has storage. -/
theorem identificationIsFixed : Obligations.IdentificationIsFixed :=
  ⟨fun _ => ⟨rfl, rfl, versionValue_major_minor⟩, fun _ _ => ⟨rfl, rfl⟩⟩

theorem statusWord_toNat (st : Status) :
    (statusWord st).toNat = st.busy.toNat + 2 * st.done.toNat + 4 * st.err.toNat + 8 * st.ovr.toNat := by
  obtain ⟨busy, done, err, ovr⟩ := st
  revert busy done err ovr
  decide

theorem ctrlWord_toNat (c : Ctrl) : (ctrlWord c).toNat = c.ieDone.toNat + 2 * c.ieErr.toNat := by
  obtain ⟨ieDone, ieErr⟩ := c
  revert ieDone ieErr
  decide

/-- Settles O47: STATUS and CTRL by their bits, ERR_CAUSE and T_OFF by zero extension. -/
theorem fieldRegistersReadAsFields : Obligations.FieldRegistersReadAsFields := fun s =>
  ⟨statusWord_toNat s.status, ctrlWord_toNat s.ctrl, BitVec.toNat_setWidth_of_le (by decide),
    BitVec.toNat_setWidth_of_le (by decide)⟩

@[simp] theorem readReg_noteTransaction (r : Reg) (resp : Resp) (rdata : Word) (s : State) :
    readReg r (noteTransaction resp rdata s) = readReg r s := by
  cases r <;> rfl

@[simp] theorem readReg_tick (r : Reg) (s : State) : readReg r (tick s) = readReg r s := by
  cases r <;> rfl

/-! ### How an access is answered -/

/-- An OKAY response recorded over a state that kept the host's side is an access answered OKAY. -/
theorem answeredOkay_noteTransaction {kind : AccessKind} {rdata v : Word} {s u : State} (hu : u.host = s.host)
    (hv : kind = .read → v = rdata) : AnsweredOkay kind rdata s (noteTransaction .okay v u) := by
  refine ⟨?_, ?_, ?_, v, rfl, hv⟩ <;> simp only [noteTransaction_host, hu]

theorem unlessBusy_host {s u : State} (h : u.host = s.host) : (unlessBusy s u).host = s.host := by
  unfold unlessBusy
  split
  · rfl
  · exact h

@[simp] theorem writeReg_host (r : Reg) (w : Word) (s : State) : (writeReg r w s).host = s.host := by
  cases r
  case CTRL =>
    simp only [writeReg, writeCtrl]
    split <;> rfl
  case ID | VERSION | STATUS | ERR_CAUSE | ERR_INFO | OUT_LEN | RESULT | CODE | T_OFF => rfl
  all_goals exact unlessBusy_host rfl

@[simp] theorem writeTarget_host (target : Target) (w : Word) (s : State) :
    (writeTarget target w s).host = s.host := by
  cases target with
  | reg r => exact writeReg_host r w s
  | bytes i n => exact unlessBusy_host rfl

/-- A host write to a target of the window is answered OKAY, whatever it does to the target (R21, R25, R33). -/
theorem transaction_write {r : Request} {s : State} {target : Target} (hr : s.rst = false) (hk : r.kind = .write)
    (hres : resolve r.addr.toNat r.size = some target) :
    transaction r s = .next (noteTransaction .okay (undrivenRdata s) (writeTarget target r.wdata (tick s))) ∧
    AnsweredOkay .write 0 s (noteTransaction .okay (undrivenRdata s) (writeTarget target r.wdata (tick s))) := by
  constructor
  · simp only [transaction, hr, hres, hk]
    rfl
  · exact answeredOkay_noteTransaction (writeTarget_host target r.wdata (tick s)) (fun h => by cases h)

/-- `transaction_write` for a register. -/
theorem transaction_regAccess_write {s : State} (r : Reg) (w : Word) (hr : s.rst = false) :
    transaction (regAccess .write r w) s =
      .next (noteTransaction .okay (undrivenRdata s) (writeReg r w (tick s))) ∧
    AnsweredOkay .write 0 s (noteTransaction .okay (undrivenRdata s) (writeReg r w (tick s))) :=
  transaction_write (r := regAccess .write r w) hr rfl (resolve_regAccess r)

/-! ### Accesses without effect, and STATUS -/

theorem writeReg_of_readOnly {r : Reg} (w : Word) (s : State) (h : r ∈ readOnlyRegs) : writeReg r w s = s := by
  revert r
  simp [readOnlyRegs, writeReg]

/-- Settles O46: a read changes only the host's record, and a write to an RO register leaves the engine as it was. -/
theorem readsAndReadOnlyWritesHaveNoEffect : Obligations.ReadsAndReadOnlyWritesHaveNoEffect := by
  unfold Obligations.ReadsAndReadOnlyWritesHaveNoEffect
  constructor
  · intro s r w hr
    exact ⟨_, transaction_readReg r w hr, rfl, answeredOkay_noteTransaction rfl fun _ => rfl⟩
  · intro s r w hr hro
    obtain ⟨ht, hok⟩ := transaction_regAccess_write r w hr
    rw [writeReg_of_readOnly w _ hro] at ht hok
    exact ⟨_, ht, rfl, hok⟩

/-- Settles O52: a STATUS write is taken whether or not a command is pending. -/
theorem statusWriteClearsOnes : Obligations.StatusWriteClearsOnes := by
  unfold Obligations.StatusWriteClearsOnes
  intro s w hr
  obtain ⟨ht, hok⟩ := transaction_regAccess_write .STATUS w hr
  exact ⟨_, ht, hok, rfl⟩

/-! ### Writes while a command is pending -/

/-- The state a dropped write leaves (R33). -/
theorem statusAfterDrop_of_busy {st : Status} (h : st.busy = true) :
    statusAfterDrop st = { busy := true, done := st.done, err := st.err, ovr := true } := by
  rw [statusAfterDrop, h]

theorem writeReg_dropped {r : Reg} (w : Word) {s : State} (hb : s.status.busy = true)
    (h : r = .CMD ∨ r ∈ operandRegs) : writeReg r w s = { s with status := statusAfterDrop s.status } := by
  revert r
  simp [operandRegs, writeReg, unlessBusy_of_busy hb]

/-- An access of BUF by address: one byte, or four aligned bytes, in the upper half of the window (R23, R61). -/
theorem resolve_buf {a : BitVec 13} {n : Nat} (ha : 0x1000 ≤ a.toNat) (hn : n = 1 ∨ (n = 4 ∧ a.toNat % 4 = 0)) :
    resolve a.toNat n = some (.bytes (a.toNat - 0x1000) n) := by
  have hlt : a.toNat < 0x2000 := a.isLt
  have h := resolve_bufAccess (i := a.toNat - 0x1000) (n := n) (by omega) (by omega)
  rwa [Nat.add_sub_cancel' ha, BitVec.ofNat_toNat, BitVec.setWidth_eq] at h

/-- Every target whose writes R33 drops: the write sets OVR and does nothing else. -/
theorem write_dropped {r : Request} {s : State} (hb : s.status.busy = true)
    (h : (∃ reg, (reg = Reg.CMD ∨ reg ∈ operandRegs) ∧ r.size = 4 ∧ r.addr.toNat = regOffset reg) ∨
      (0x1000 ≤ r.addr.toNat ∧ (r.size = 1 ∨ (r.size = 4 ∧ r.addr.toNat % 4 = 0)))) :
    ∃ target, resolve r.addr.toNat r.size = some target ∧
      writeTarget target r.wdata s = { s with status := statusAfterDrop s.status } := by
  obtain ⟨reg, hreg, hsize, haddr⟩ | ⟨haddr, hsize⟩ := h
  · exact ⟨.reg reg, by rw [haddr, hsize, resolve_register], writeReg_dropped r.wdata hb hreg⟩
  · exact ⟨_, resolve_buf haddr hsize, unlessBusy_of_busy hb⟩

/-- A write to CTRL, to STATUS or to an RO register never sets OVR. -/
theorem writeReg_ovr {r : Reg} (w : Word) (s : State) (h : r = .CTRL ∨ r = .STATUS ∨ r ∈ readOnlyRegs)
    (hovr : (writeReg r w s).status.ovr = true) : s.status.ovr = true := by
  obtain rfl | rfl | hro := h
  · simp only [writeReg, writeCtrl] at hovr
    split at hovr
    · cases hovr
    · exact hovr
  · exact (Bool.and_eq_true_iff.mp hovr).1
  · rwa [writeReg_of_readOnly w s hro] at hovr

/-- Settles O51: `write_dropped` for the first clause, `writeReg_ovr` for the second. -/
theorem pendingWritesAreDropped : Obligations.PendingWritesAreDropped := by
  unfold Obligations.PendingWritesAreDropped
  constructor
  · intro s r hr hb hk htarget
    obtain ⟨target, hres, hw⟩ := write_dropped (s := tick s) hb htarget
    obtain ⟨ht, hok⟩ := transaction_write hr hk hres
    rw [hw] at ht hok
    refine ⟨_, ht, hok, ?_⟩
    rw [← statusAfterDrop_of_busy hb]
    rfl
  · intro s reg w hr _ hreg
    obtain ⟨ht, hok⟩ := transaction_regAccess_write reg w hr
    exact ⟨_, ht, hok, writeReg_ovr w (tick s) hreg⟩

/-! ### Writes to the operand registers -/

section Operands
variable {r : Reg} (w : Word) {s : State} (hi : s.status.busy = false) (h : r ∈ operandRegs)
include hi h

/-- What every register reads as after a write to an operand register. -/
theorem readReg_writeReg_operand (r' : Reg) :
    readReg r' (writeReg r w s) = if r' = r then w else readReg r' s := by
  simp only [operandRegs, List.mem_cons, List.not_mem_nil, or_false] at h
  rcases h with rfl | rfl | rfl | rfl | rfl | rfl | rfl | rfl | rfl | rfl | rfl | rfl <;>
    simp only [writeReg, unlessBusy_of_idle hi] <;> cases r' <;> rfl

theorem writeReg_operand_buf_rst : (writeReg r w s).buf = s.buf ∧ (writeReg r w s).rst = s.rst := by
  revert r
  simp [operandRegs, writeReg, unlessBusy_of_idle hi]

end Operands

/-- Settles O55: the host's record and the latency, which the transaction also changes, are read by no register. -/
theorem operandRegistersReadBack : Obligations.OperandRegistersReadBack := by
  unfold Obligations.OperandRegistersReadBack
  intro s r w hr hi hop
  obtain ⟨ht, hok⟩ := transaction_regAccess_write r w hr
  have hread := readReg_writeReg_operand w (s := tick s) hi hop
  obtain ⟨hbuf, hrst⟩ := writeReg_operand_buf_rst w (s := tick s) hi hop
  refine ⟨_, ht, hok, ?_, fun r' hne => ?_, hbuf, hrst⟩
  · rw [readReg_noteTransaction, hread, if_pos rfl]
  · rw [readReg_noteTransaction, hread, if_neg hne, readReg_tick]

end Sys2Proof.Machine
end
section
/-!
SUPPORT. The bus port and BUF: which accesses are served, what a read and a write of BUF's bytes answer and change, a
digest's words on the bus, and what the host can do while a command is pending.
-/

namespace Sys2Proof.Machine

/-! ### Steps that are no completion -/

theorem step_of_agenda_nil {s : State} (hdue : completionDue s = false) (h : s.host.agenda = []) :
    step s = .next s := by
  simp only [step, hdue, h]
  rfl

theorem step_of_agenda_cons {s : State} {a : HostAction} {rest : List HostAction} (hdue : completionDue s = false)
    (h : s.host.agenda = a :: rest) : step s = perform a rest s := by
  simp only [step, hdue, h]
  rfl

/-- Settles O7: `completionDue_iff` turns the hypothesis into the test of `step`. -/
theorem hostMovesOtherwise : Obligations.HostMovesOtherwise := by
  unfold Obligations.HostMovesOtherwise
  intro s h
  have hdue : completionDue s = false := Bool.eq_false_iff.mpr (mt completionDue_iff.mp h)
  exact ⟨step_of_agenda_nil hdue, fun a rest => step_of_agenda_cons hdue⟩

/-! ### While a command is pending -/

/-- The pending command of `s` is still pending in `t` and its inputs are as they were, or the engine was reset, with BUF
kept or wholly unwritten (R69, R230, R232). -/
def StaysPendingOrResets (s t : State) : Prop :=
  (t.status.busy = true ∧
    t = { s with ctrl := t.ctrl, status := t.status, host := t.host, sched := t.sched }) ∨
  (t = { State.reset with rst := t.rst, buf := t.buf, host := t.host, sched := t.sched } ∧
    (t.buf = s.buf ∨ t.buf = []))

/-- Whatever more happens to the host and to the model's own fields does not matter. -/
theorem StaysPendingOrResets.of_sameEngine {s t u : State} (h : StaysPendingOrResets s t) (he : SameEngine t u) :
    StaysPendingOrResets s u := by
  have key : ∀ host sched, StaysPendingOrResets s { t with host := host, sched := sched } := fun host sched => by
    obtain ⟨hbusy, ht⟩ | ⟨ht, hbuf⟩ := h
    · exact .inl ⟨hbusy, by rw [ht]⟩
    · exact .inr ⟨by rw [ht], hbuf⟩
  rw [he]
  exact key _ _

section Pending
variable {s : State} (hb : s.status.busy = true)
include hb

theorem staysPendingOrResets_of_sameEngine {t : State} (he : SameEngine s t) : StaysPendingOrResets s t :=
  StaysPendingOrResets.of_sameEngine (.inl ⟨hb, rfl⟩) he

theorem writeReg_staysPendingOrResets (r : Reg) (w : Word) : StaysPendingOrResets s (writeReg r w s) := by
  rcases writeReg_of_busy (r := r) (w := w) hb with e | e | e | e | e <;> rw [e]
  · exact .inl ⟨hb, rfl⟩
  · exact .inl ⟨hb, rfl⟩
  · exact .inl ⟨hb, rfl⟩
  · exact .inl ⟨hb, rfl⟩
  · exact .inr ⟨rfl, .inl rfl⟩

theorem writeTarget_staysPendingOrResets (target : Target) (w : Word) :
    StaysPendingOrResets s (writeTarget target w s) := by
  cases target with
  | reg r => exact writeReg_staysPendingOrResets hb r w
  | bytes i n =>
    rw [writeTarget, unlessBusy_of_busy hb]
    exact .inl ⟨hb, rfl⟩

theorem transaction_staysPendingOrResets {r : Request} {t : State} (ht : transaction r s = .next t) :
    StaysPendingOrResets s t := by
  obtain ⟨-, rfl⟩ | ⟨-, -, rfl⟩ | ⟨-, -, -, -, -, -, rfl⟩ | ⟨-, -, target, -, rfl⟩ := transaction_next ht
  · exact staysPendingOrResets_of_sameEngine hb rfl
  · exact staysPendingOrResets_of_sameEngine hb rfl
  · exact staysPendingOrResets_of_sameEngine hb rfl
  · exact (writeTarget_staysPendingOrResets (s := tick s) hb target r.wdata).of_sameEngine rfl

theorem releaseRst_staysPendingOrResets : StaysPendingOrResets s (releaseRst s) := by
  unfold releaseRst
  split
  · exact .inr ⟨rfl, .inr rfl⟩
  · exact .inl ⟨hb, rfl⟩

theorem perform_staysPendingOrResets {a : HostAction} {rest : List HostAction} {t : State}
    (hp : perform a rest s = .next t) : StaysPendingOrResets s t := by
  obtain ⟨r, -, ht⟩ | ⟨-, u, ht, rfl | rfl⟩ | ⟨-, rfl⟩ | ⟨-, rfl⟩ := perform_next hp
  · exact transaction_staysPendingOrResets (s := setAgenda rest s) hb ht
  · exact transaction_staysPendingOrResets hb ht
  · exact (transaction_staysPendingOrResets hb ht).of_sameEngine rfl
  · exact .inr ⟨rfl, .inr rfl⟩
  · exact releaseRst_staysPendingOrResets (s := setAgenda rest s) hb

end Pending

/-- Settles O14: a step that is no completion is nothing, or an entry of the agenda (`perform_staysPendingOrResets`). -/
theorem pendingInputsStable : Obligations.PendingInputsStable := by
  unfold Obligations.PendingInputsStable
  intro s t hb hdue hs
  obtain ⟨hdue', -⟩ | ⟨-, -, rfl⟩ | ⟨-, a, rest, -, hp⟩ := step_next hs
  · rw [hdue] at hdue'
    cases hdue'
  · exact .inl ⟨hb, rfl⟩
  · exact perform_staysPendingOrResets hb hp

/-! ### Which accesses are served -/

/-- The offsets of R24 up to 0x60 are the aligned ones but two. -/
theorem exists_regAt {a : Nat} (hle : a ≤ 0x60) (h4 : a % 4 = 0) (h1C : a ≠ 0x1C) (h3C : a ≠ 0x3C) :
    ∃ r, regAt a = some r := by
  have key : ∀ a ≤ 0x60, a % 4 = 0 → a ≠ 0x1C → a ≠ 0x3C → (regAt a).isSome = true := by decide
  exact Option.isSome_iff_exists.mp (key a hle h4 h1C h3C)

theorem regOffset_le_ne (r : Reg) : regOffset r ≤ 0x60 ∧ regOffset r ≠ 0x1C ∧ regOffset r ≠ 0x3C := by
  cases r <;> decide

/-- The accesses that reach a target of the window are those the statements call served (R61, R62). -/
theorem served_iff_resolve {r : Request} : Served r ↔ ∃ target, resolve r.addr.toNat r.size = some target := by
  constructor
  · rintro (⟨hsize, h4, ⟨hle, h1C, h3C⟩ | hbuf⟩ | ⟨hsize, hbuf⟩)
    · obtain ⟨reg, hreg⟩ := exists_regAt hle h4 h1C h3C
      exact ⟨.reg reg, by rw [hsize, regOffset_of_regAt hreg, resolve_register]⟩
    · exact ⟨_, resolve_buf hbuf (.inr ⟨hsize, h4⟩)⟩
    · exact ⟨_, resolve_buf hbuf (.inl hsize)⟩
  · rintro ⟨reg | ⟨i, n⟩, h⟩
    · obtain ⟨hsize, haddr⟩ := resolve_reg_inv h
      exact .inl ⟨hsize, haddr ▸ regOffset_aligned reg, .inl (haddr ▸ regOffset_le_ne reg)⟩
    · obtain ⟨hsize, haddr, -, hn⟩ := resolve_bytes_inv h
      have hoff : bufOffset = 0x1000 := rfl
      unfold Served
      omega

theorem resolve_of_not_served {r : Request} (h : ¬Served r) : resolve r.addr.toNat r.size = none :=
  Option.eq_none_iff_forall_ne_some.mpr fun target ht => h (served_iff_resolve.mpr ⟨target, ht⟩)

theorem transaction_of_not_served {r : Request} {s : State} (hr : s.rst = false) (h : ¬Served r) :
    transaction r s = .next (errorTransaction r (tick s)) := by
  simp only [transaction, hr, resolve_of_not_served h]
  rfl

/-- A transaction with ERROR: the engine is kept, and the host sees 0 on a read and records the error (R62, R63). -/
theorem errorTransaction_spec (r : Request) (s : State) :
    SameEngine s (errorTransaction r s) ∧ (errorTransaction r s).host.agenda = s.host.agenda ∧
    (errorTransaction r s).host.position = s.host.position + 1 ∧
    (∃ v, (errorTransaction r s).host.response = some { resp := .error, rdata := v } ∧ (r.kind = .read → v = 0)) ∧
    (errorTransaction r s).host.busErrors = { addr := r.addr, size := r.size, kind := r.kind } :: s.host.busErrors :=
  ⟨rfl, rfl, rfl, ⟨_, rfl, fun hk => by rw [hk]⟩, rfl⟩

/-- A served transaction that goes on is answered OKAY, with no bus error recorded. -/
theorem answeredOkay_of_served {r : Request} {s t : State} (hr : s.rst = false) (h : Served r)
    (ht : transaction r s = .next t) : ∃ v, AnsweredOkay r.kind v s t := by
  obtain ⟨target, hres⟩ := served_iff_resolve.mp h
  obtain ⟨hrst, -⟩ | ⟨-, hnone, -⟩ | ⟨-, -, -, v, -, -, rfl⟩ | ⟨-, -, target, -, rfl⟩ := transaction_next ht
  · rw [hr] at hrst
    cases hrst
  · rw [hres] at hnone
    cases hnone
  · exact ⟨v, answeredOkay_noteTransaction rfl fun _ => rfl⟩
  · exact ⟨_, answeredOkay_noteTransaction (writeTarget_host target r.wdata (tick s)) fun _ => rfl⟩

/-- Settles O48: `served_iff_resolve` decides which of the two answers an access gets. -/
theorem errorResponsesChangeNothing : Obligations.ErrorResponsesChangeNothing := by
  unfold Obligations.ErrorResponsesChangeNothing
  intro s r hr
  constructor
  · intro h
    obtain ⟨hsame, hagenda, hpos, ⟨v, hresp, hv⟩, herr⟩ := errorTransaction_spec r (tick s)
    exact ⟨_, v, transaction_of_not_served hr h, hsame, hagenda, hpos, hresp, hv, herr⟩
  · intro h t ht
    obtain ⟨v, -, -, herr, v', hresp, -⟩ := answeredOkay_of_served hr h ht
    exact ⟨herr, v', hresp⟩

/-! ### The data bits of bytes (R64) -/

theorem busWord_cons_toNat (b : Byte) (bs : List Byte) :
    (busWord (b :: bs)).toNat = b.toNat + 2 ^ 8 * ((busWord bs).toNat % 2 ^ 24) := by
  have hshift : (busWord bs).toNat <<< 8 % 2 ^ 32 = 2 ^ 8 * ((busWord bs).toNat % 2 ^ 24) := by
    rw [Nat.shiftLeft_eq]
    omega
  rw [busWord, BitVec.toNat_or, BitVec.toNat_setWidth_of_le (by decide), BitVec.toNat_shiftLeft, hshift, Nat.or_comm,
    ← Nat.two_pow_add_eq_or_of_lt b.isLt, Nat.add_comm]

@[simp] theorem busWord_nil_toNat : (busWord []).toNat = 0 := rfl

theorem busWord_one_toNat (b : Byte) : (busWord [b]).toNat = b.toNat := by
  rw [busWord_cons_toNat, busWord_nil_toNat, Nat.zero_mod, Nat.mul_zero, Nat.add_zero]

theorem busWord_four_toNat (b0 b1 b2 b3 : Byte) :
    (busWord [b0, b1, b2, b3]).toNat = b0.toNat + 2 ^ 8 * b1.toNat + 2 ^ 16 * b2.toNat + 2 ^ 24 * b3.toNat := by
  have h1 := b1.isLt
  have h2 := b2.isLt
  have h3 := b3.isLt
  simp only [busWord_cons_toNat, busWord_nil_toNat]
  omega

theorem append_byte_toNat {n : Nat} (x : BitVec n) (b : Byte) : (x ++ b).toNat = 2 ^ 8 * x.toNat + b.toNat := by
  rw [BitVec.toNat_append, ← Nat.shiftLeft_add_eq_or_of_lt b.isLt, Nat.shiftLeft_eq, Nat.mul_comm]

theorem wordOfBytes_toNat (b0 b1 b2 b3 : Byte) :
    (wordOfBytes b0 b1 b2 b3).toNat = b0.toNat + 2 ^ 8 * b1.toNat + 2 ^ 16 * b2.toNat + 2 ^ 24 * b3.toNat := by
  simp only [wordOfBytes, append_byte_toNat]
  omega

theorem busWord_four (b0 b1 b2 b3 : Byte) : busWord [b0, b1, b2, b3] = wordOfBytes b0 b1 b2 b3 :=
  BitVec.eq_of_toNat_eq ((busWord_four_toNat b0 b1 b2 b3).trans (wordOfBytes_toNat b0 b1 b2 b3).symm)

/-- Byte `k` of the data of a write is its bits 8k+7:8k. -/
theorem busBytes_getElem {n k : Nat} (w : Word) (h : k < (busBytes n w).length) :
    (busBytes n w)[k] = BitVec.ofNat 8 (w.toNat / 2 ^ (8 * k)) := by
  induction n generalizing w k with
  | zero => cases h
  | succ n ih =>
    cases k with
    | zero => simp [busBytes, BitVec.ofNat_toNat]
    | succ k =>
      simp only [busBytes, List.getElem_cons_succ, ih, BitVec.toNat_ushiftRight, Nat.shiftRight_eq_div_pow,
        Nat.div_div_eq_div_mul, ← Nat.pow_add]
      rw [Nat.mul_succ, Nat.add_comm]

/-! ### Reads of BUF -/

theorem Memory.readBytes_one {m : Memory} {i : Nat} {b : Byte} (h : m.read i = some b) : m.readBytes i 1 = .ok [b] := by
  simp only [Memory.readBytes, h]

theorem Memory.readBytes_four {m : Memory} {i : Nat} {b0 b1 b2 b3 : Byte} (h0 : m.read i = some b0)
    (h1 : m.read (i + 1) = some b1) (h2 : m.read (i + 2) = some b2) (h3 : m.read (i + 3) = some b3) :
    m.readBytes i 4 = .ok [b0, b1, b2, b3] := by
  simp only [Memory.readBytes, h0, h1, h2, h3]

/-- A region of a region that is read is read too, with its part of the bytes. -/
theorem Memory.readBytes_part {m : Memory} {a n i l : Nat} {bs : List Byte} (h : m.readBytes a n = .ok bs)
    (hin : i + l ≤ n) : m.readBytes (a + i) l = .ok ((bs.drop i).take l) := by
  obtain ⟨hlen, hread⟩ := Memory.readBytes_ok_iff.mp h
  refine Memory.readBytes_ok_iff.mpr ⟨by simp; omega, fun j hj => ?_⟩
  simp only [List.length_take, List.length_drop] at hj
  rw [Nat.add_assoc, hread (i + j) (by omega)]
  simp

/-- A host read of written bytes of BUF answers their data bits and has no side effect (R64). -/
theorem transaction_readBuf_answered {s : State} {i n : Nat} {bs : List Byte} (w : Word) (hr : s.rst = false)
    (hn : n = 1 ∨ (n = 4 ∧ i % 4 = 0)) (hi : i + n ≤ 4096) (hb : s.buf.readBytes i n = .ok bs) :
    ∃ t, transaction (bufAccess .read i n w) s = .next t ∧ SameEngine s t ∧ AnsweredOkay .read (busWord bs) s t :=
  ⟨_, transaction_readBuf w hr hn hi hb, rfl, answeredOkay_noteTransaction rfl fun _ => rfl⟩

/-- Settles O49: the two reads answer `busWord` of their bytes, and a failed one names the lowest unwritten index. -/
theorem bufReadsAreLittleEndian : Obligations.BufReadsAreLittleEndian := by
  unfold Obligations.BufReadsAreLittleEndian
  refine ⟨?_, ?_, ?_⟩
  · intro s i b w hr hi hb
    obtain ⟨t, ht, hsame, hok⟩ := transaction_readBuf_answered w hr (.inl rfl) hi (Memory.readBytes_one hb)
    exact ⟨t, _, ht, hsame, hok, busWord_one_toNat b⟩
  · intro s i b0 b1 b2 b3 w hr h4 hi h0 h1 h2 h3
    obtain ⟨t, ht, hsame, hok⟩ :=
      transaction_readBuf_answered w hr (.inr ⟨rfl, h4⟩) hi (Memory.readBytes_four h0 h1 h2 h3)
    exact ⟨t, _, ht, hsame, hok, busWord_four_toNat b0 b1 b2 b3⟩
  · intro s i n j w hr hn hi hij hj hnone hbelow
    exact transaction_readBuf_unwritten w hr hn hi (Memory.readBytes_error_iff.mpr
      ⟨hij, hj, hnone, fun k hk hkj => Option.isSome_iff_ne_none.mpr (hbelow k hk hkj)⟩)

/-! ### Writes of BUF -/

theorem writeTarget_bytes_of_idle {s : State} (i n : Nat) (w : Word) (hi : s.status.busy = false) :
    writeTarget (.bytes i n) w s = { s with buf := s.buf.writeBytes i (busBytes n w) } :=
  unlessBusy_of_idle hi

/-- Settles O50: the laws of `writeBytes`, with the bytes of `busBytes_getElem`. -/
theorem bufWritesStoreBytes : Obligations.BufWritesStoreBytes := by
  unfold Obligations.BufWritesStoreBytes
  intro s i n w hr hidle hn hi
  have ht := transaction_writeBuf w hr hn hi
  rw [writeTarget_bytes_of_idle (s := tick s) i n w hidle] at ht
  refine ⟨_, ht, answeredOkay_noteTransaction rfl nofun, rfl, fun k hk => ?_, fun a ha => ?_⟩
  · have hk' : k < (busBytes n w).length := by rwa [busBytes_length]
    exact (Memory.read_writeBytes_inside hk').trans (congrArg some (busBytes_getElem w hk'))
  · exact Memory.read_writeBytes_outside (by rwa [busBytes_length])

/-! ### A digest's words on the bus -/

/-- The words H0 to H4 in order (R39, R158). -/
def Chain.words (h : Chain) : List Word := [h.h0, h.h1, h.h2, h.h3, h.h4]

/-- The four bytes of word `k` of a digest. -/
theorem digestBytes_word (h : Chain) {k : Nat} (hk : k < 5) :
    ((digestBytes h).drop (4 * k)).take 4 = be32Bytes (h.words.getD k 0) := by
  match k, hk with
  | 0, _ | 1, _ | 2, _ | 3, _ | 4, _ => rfl

/-- The bus is little-endian and a digest's words are stored big-endian, so the bytes come out reversed (R65, R66). -/
theorem busWord_be32Bytes (w : Word) :
    busWord (be32Bytes w) = w.extractLsb' 0 8 ++ w.extractLsb' 8 8 ++ w.extractLsb' 16 8 ++ w.extractLsb' 24 8 :=
  busWord_four _ _ _ _

theorem transaction_readDigestWord {s : State} {base k : Nat} {h : Chain} (w : Word) (hr : s.rst = false)
    (h4 : base % 4 = 0) (hin : base + 20 ≤ 4096) (hk : k < 5) (hb : s.buf.readBytes base 20 = .ok (digestBytes h)) :
    ∃ t, transaction (bufAccess .read (base + 4 * k) 4 w) s = .next t ∧
      AnsweredOkay .read (busWord (be32Bytes (h.words.getD k 0))) s t := by
  have hword := Memory.readBytes_part hb (show 4 * k + 4 ≤ 20 by omega)
  rw [digestBytes_word h hk] at hword
  obtain ⟨t, ht, -, hok⟩ := transaction_readBuf_answered w hr (.inr ⟨rfl, by omega⟩) (by omega) hword
  exact ⟨t, ht, hok⟩

theorem sha1_nil_h0 : (sha1 []).h0 = 0xDA39A3EE := by decide +kernel

/-- The digest of the empty message, which is what a reset engine has at SRC, goes to the start of BUF. -/
theorem execSha1Digest_reset : execSha1Digest State.reset = .next (succeed (storeDigest (sha1 []) State.reset)) := by
  rw [execSha1Digest, checkRegion_of_inBounds (by decide), withBytes_of_read (bs := []) rfl,
    checkRegion_of_inBounds (by decide)]

/-- The completed SHA1.DIGEST or HMAC.SHA1 leaves a digest at DST, whose words the bus then reads reversed. -/
theorem transaction_readStoredDigestWord {s : State} {k : Nat} (h : Chain) (w : Word) (hr : s.rst = false)
    (h4 : s.args.dst.toNat % 4 = 0) (hin : s.args.dst.toNat + 20 ≤ 4096) (hk : k < 5) :
    ∃ t, transaction (bufAccess .read (s.args.dst.toNat + 4 * k) 4 w) (succeed (storeDigest h s)) = .next t ∧
      AnsweredOkay .read (busWord (be32Bytes (h.words.getD k 0))) (succeed (storeDigest h s)) t := by
  refine transaction_readDigestWord w ?_ h4 hin hk ?_
  · rw [succeed_rst, storeDigest_rst, hr]
  · rw [succeed_buf, storeDigest_buf, ← digestBytes_length h]
    exact Memory.readBytes_writeBytes _ _ _

/-- Settles O59: `transaction_readDigestWord`, and word 0 of the digest of the empty message. -/
theorem digestWordsReadSwapped : Obligations.DigestWordsReadSwapped := by
  unfold Obligations.DigestWordsReadSwapped
  constructor
  · obtain ⟨t, ht, -, -, -, v, hresp, hv⟩ :=
      transaction_readStoredDigestWord (s := State.reset) (k := 0) (sha1 []) 0 rfl (by decide) (by decide) (by decide)
    refine ⟨_, t, execSha1Digest_reset, ?_, ht, ?_⟩
    · rw [readReg, succeed_chain, storeDigest_chain, sha1_nil_h0]
    · rw [hresp, hv rfl, Chain.words, List.getD_cons_zero, sha1_nil_h0]
      decide
  · intro s base k h w hr h4 hin hk hb
    obtain ⟨t, ht, hok⟩ := transaction_readDigestWord w hr h4 hin hk hb
    exact ⟨t, _, ht, hok, busWord_be32Bytes _⟩

end Sys2Proof.Machine
end

section
/-!
SUPPORT. The command word: its three fields in numbers, what the opcode table answers, the words that decode to a command
and those that are ILLEGAL; how an ILLEGAL word completes; one turn of `wait`; and the expansions of a host
program's lines.
-/

namespace Sys2Proof.Machine

/-! ### The fields of a word (R80) -/

theorem opField_toNat (w : Word) : (opField w).toNat = w.toNat % 256 := by
  simp [opField, BitVec.extractLsb'_toNat]

theorem digField_toNat (w : Word) : (digField w).toNat = w.toNat / 256 % 16 := by
  simp [digField, BitVec.extractLsb'_toNat, Nat.shiftRight_eq_div_pow]

theorem rsvField_toNat (w : Word) : (rsvField w).toNat = w.toNat / 4096 := by
  have hw : w.toNat < 2 ^ 32 := w.isLt
  simp only [rsvField, BitVec.extractLsb'_toNat, Nat.shiftRight_eq_div_pow]
  omega

theorem rsvField_eq_zero_iff (w : Word) : rsvField w = 0 ↔ w.toNat / 4096 = 0 := by
  rw [← rsvField_toNat, ← BitVec.toNat_inj]
  rfl

theorem digField_eq_zero_iff (w : Word) : digField w = 0 ↔ w.toNat / 256 % 16 = 0 := by
  rw [← digField_toNat, ← BitVec.toNat_inj]
  rfl

theorem opField_eq_seven_iff (w : Word) : opField w = 7 ↔ w.toNat % 256 = 7 := by
  rw [← opField_toNat, ← BitVec.toNat_inj]
  rfl

/-- The three fields make up the whole word. -/
theorem word_eq_of_fields {w w' : Word} (hop : opField w = opField w') (hdig : digField w = digField w')
    (hrsv : rsvField w = rsvField w') : w = w' := by
  have h1 := congrArg BitVec.toNat hop
  have h2 := congrArg BitVec.toNat hdig
  have h3 := congrArg BitVec.toNat hrsv
  rw [opField_toNat, opField_toNat] at h1
  rw [digField_toNat, digField_toNat] at h2
  rw [rsvField_toNat, rsvField_toNat] at h3
  exact BitVec.eq_of_toNat_eq (by omega)

/-- The family `Fields` for every command. -/
theorem fieldsStatement (i : Instr) : Laws.Fields.Statement i := by
  cases i with
  | nop => exact Laws.Fields.nop
  | sha1Init => exact Laws.Fields.sha1Init
  | sha1Block => exact Laws.Fields.sha1Block
  | sha1Digest => exact Laws.Fields.sha1Digest
  | hmacSha1 => exact Laws.Fields.hmacSha1
  | ctrEnc => exact Laws.Fields.ctrEnc
  | b32Dec => exact Laws.Fields.b32Dec
  | trunc d => exact Laws.Fields.trunc d

/-! ### The opcode table (R82, R84) -/

theorem instrOfOp_opcode (i : Instr) : instrOfOp i.opcode i.digits = some i := by
  cases i <;> rfl

/-- The table has one opcode per command, and only 0x07 takes its command's digit count from DIG. -/
theorem fields_of_instrOfOp {op : BitVec 8} {dig : BitVec 4} {i : Instr} (h : instrOfOp op dig = some i) :
    op = i.opcode ∧ (op = 7 → dig = i.digits) := by
  unfold instrOfOp at h
  split at h <;> cases h <;> rename_i hop
  case h_8 => exact ⟨BitVec.eq_of_toNat_eq hop, fun _ => rfl⟩
  all_goals exact ⟨BitVec.eq_of_toNat_eq hop, fun h7 => absurd (h7 ▸ hop) (by decide)⟩

theorem exists_instrOfOp_iff {op : BitVec 8} {dig : BitVec 4} : (∃ i, instrOfOp op dig = some i) ↔ op.toNat ≤ 7 := by
  constructor
  · rintro ⟨i, h⟩
    obtain ⟨-, -, -, hle, -⟩ := fieldsStatement i
    rwa [(fields_of_instrOfOp h).1]
  · intro hle
    have hcases : op.toNat = 0 ∨ op.toNat = 1 ∨ op.toNat = 2 ∨ op.toNat = 3 ∨ op.toNat = 4 ∨ op.toNat = 5 ∨
        op.toNat = 6 ∨ op.toNat = 7 := by omega
    unfold instrOfOp
    rcases hcases with h | h | h | h | h | h | h | h <;> rw [h] <;> exact ⟨_, rfl⟩

/-! ### Decoding (R83) -/

theorem decode_eq_ok_iff {w : Word} {i : Instr} :
    decode w = .ok i ↔ rsvField w = 0 ∧ instrOfOp (opField w) (digField w) = some i ∧
      (opField w ≠ 7 → digField w = 0) := by
  unfold decode
  split
  · rename_i hrsv
    exact ⟨nofun, fun h => absurd h.1 hrsv⟩
  · rename_i hrsv
    rw [Decidable.not_not] at hrsv
    cases hi : instrOfOp (opField w) (digField w) with
    | none => simp only [reduceCtorEq, false_and, and_false]
    | some i' =>
      by_cases hdig : opField w ≠ 7 ∧ digField w ≠ 0
      · simp only [if_pos hdig, reduceCtorEq, false_iff]
        exact fun ⟨_, _, h⟩ => hdig.2 (h hdig.1)
      · simp only [if_neg hdig, Except.ok.injEq, Option.some.injEq, hrsv, true_and]
        exact ⟨fun h => ⟨h, fun h7 => Decidable.not_not.mp fun h0 => hdig ⟨h7, h0⟩⟩, And.left⟩

theorem exists_decode_error_iff {w : Word} : (∃ e, decode w = .error e) ↔ ¬∃ i, decode w = .ok i := by
  cases decode w <;> simp

theorem decode_encode (i : Instr) : decode (encode i) = .ok i := by
  obtain ⟨hop, hdig, hrsv, -, hzero⟩ := fieldsStatement i
  rw [decode_eq_ok_iff, hop, hdig]
  exact ⟨hrsv, instrOfOp_opcode i, hzero⟩

theorem encode_of_decode {w : Word} {i : Instr} (h : decode w = .ok i) : w = encode i := by
  obtain ⟨hrsv, hi, hdig⟩ := decode_eq_ok_iff.mp h
  obtain ⟨hop, h7⟩ := fields_of_instrOfOp hi
  obtain ⟨hop', hdig', hrsv', -, hzero⟩ := fieldsStatement i
  refine word_eq_of_fields (hop.trans hop'.symm) ?_ (hrsv.trans hrsv'.symm)
  rw [hdig']
  by_cases hcase : opField w = 7
  · exact h7 hcase
  · rw [hdig hcase, hzero (hop ▸ hcase)]

/-- Settles O1: `decode_encode` one way, and the other way the fields of a word that decodes determine it. -/
theorem decodeIffEncode : Obligations.DecodeIffEncode := by
  unfold Obligations.DecodeIffEncode
  exact fun w i => ⟨encode_of_decode, fun h => h ▸ decode_encode i⟩

/-- Settles O2: a word decodes to some command exactly where each of the three tests of R83 passes. -/
theorem illegalWordsByField : Obligations.IllegalWordsByField := by
  unfold Obligations.IllegalWordsByField
  intro w
  simp only [exists_decode_error_iff, decode_eq_ok_iff, exists_and_left, exists_and_right, exists_instrOfOp_iff,
    opField_toNat, rsvField_eq_zero_iff, ne_eq, opField_eq_seven_iff, digField_eq_zero_iff]
  omega

/-! ### The legal words (R86) -/

/-- The legal commands, in the order of the words of R86. -/
def legalInstrs : List Instr :=
  [.nop, .sha1Init, .sha1Block, .sha1Digest, .hmacSha1, .ctrEnc, .b32Dec,
    .trunc 1, .trunc 2, .trunc 3, .trunc 4, .trunc 5, .trunc 6, .trunc 7, .trunc 8, .trunc 9]

theorem wellFormed_iff_mem (i : Instr) : i.wellFormed = true ↔ i ∈ legalInstrs := by
  cases i with
  | trunc d =>
    revert d
    decide
  | _ => decide

theorem mem_map_encode_iff {w : Word} {i : Instr} {is : List Instr} :
    (w, i) ∈ is.map (fun j => (encode j, j)) ↔ w = encode i ∧ i ∈ is := by
  simp only [List.mem_map, Prod.mk.injEq]
  constructor
  · rintro ⟨j, hj, rfl, rfl⟩
    exact ⟨rfl, hj⟩
  · rintro ⟨rfl, hi⟩
    exact ⟨i, hi, rfl, rfl⟩

/-- Outside 1..9 the first check of TRUNC fails (R84, R190). -/
theorem exec_trunc_of_illegal {d : BitVec 4} (s : State) (h : ¬(1 ≤ d.toNat ∧ d.toNat ≤ 9)) :
    exec (.trunc d) s = .next (raiseCause .digitsRange (d.setWidth 32) s) :=
  checkDigits_of_illegal h

theorem encode_trunc (d : BitVec 4) : encode (.trunc d) = BitVec.ofNat 32 (7 + 256 * d.toNat) := by
  revert d
  decide

/-- Settles O3: the 16 pairs are the legal commands with their words, and `encode_trunc` is each TRUNC word. -/
theorem legalWordsAreSixteen : Obligations.LegalWordsAreSixteen := by
  unfold Obligations.LegalWordsAreSixteen
  constructor
  · intro w i
    rw [decodeIffEncode w i, wellFormed_iff_mem, ← mem_map_encode_iff]
    rfl
  · intro d h
    exact ⟨encode_trunc d ▸ decode_encode _, fun s => ⟨_, exec_trunc_of_illegal s h, rfl⟩⟩

/-- Settles O4: each word is evaluated. -/
theorem writtenWordsDecode : Obligations.WrittenWordsDecode := by
  unfold Obligations.WrittenWordsDecode
  decide

/-! ### The completion of an ILLEGAL word, and a turn of `wait` -/

theorem step_of_completionDue {s : State} (h : completionDue s = true) : step s = complete s := by
  simp only [step, h, if_true]

theorem complete_of_illegal {s : State} {e : DecodeError} (h : decode s.cmd = .error e) :
    complete s = .next (raiseCause .illegalCmd s.cmd s) := by
  simp only [complete, h]

/-- Settles O6: the due completion raises ILLEGAL_CMD with the word, and `raiseCause` writes the report alone. -/
theorem illegalWordFailsAtCompletion : Obligations.IllegalWordFailsAtCompletion := by
  unfold Obligations.IllegalWordFailsAtCompletion
  intro s e hb hr hdue he
  rw [step_of_completionDue (completionDue_iff.mpr ⟨hb, hr, hdue⟩), complete_of_illegal he]
  rfl

/-- Settles O13: the turn is the read of STATUS of `waitTurn_of_rst_low`, and the bit read is BUSY. -/
theorem waitTurnsUntilIdle : Obligations.WaitTurnsUntilIdle := by
  unfold Obligations.WaitTurnsUntilIdle
  intro s rest hr ha hdue
  have hstep : step s = waitTurn rest s := step_of_agenda_cons hdue ha
  rw [hstep, waitTurn_of_rst_low rest hr]
  refine ⟨_, rfl, ?_⟩
  cases hb : s.status.busy with
  | true => exact ⟨rfl, rfl, rfl, rfl, fun _ => ha, nofun⟩
  | false => exact ⟨rfl, rfl, rfl, rfl, nofun, fun _ => rfl⟩

/-! ### The expansions of a host program's lines (R93) -/

theorem wr32Action_regOffset (r : Reg) (w : Word) : wr32Action (regOffset r) w = .bus (regAccess .write r w) := rfl

theorem wr32Action_buf (i : Nat) (w : Word) : wr32Action (bufOffset + i) w = .bus (bufAccess .write i 4 w) := rfl

/-- The data of a `wr8` of a byte is that byte: the mask of R90 changes nothing. -/
theorem wr8Action_buf (i : Nat) (b : Byte) :
    wr8Action (bufOffset + i) (b.setWidth 32) = .bus (bufAccess .write i 1 (b.setWidth 32)) := by
  have hmask : b.setWidth 32 &&& 0xFF = b.setWidth 32 := by
    revert b
    decide
  rw [wr8Action, hmask]
  rfl

@[simp] theorem ldbufActions_length (i : Nat) (bs : List Byte) : (ldbufActions i bs).length = bs.length := by
  induction bs generalizing i with
  | nil => rfl
  | cons b bs ih => simp only [ldbufActions, List.length_cons, ih]

/-- Entry `k` of the load writes byte `k`. -/
theorem ldbufActions_getElem? {i k : Nat} {b : Byte} {bs : List Byte} (h : bs[k]? = some b) :
    (ldbufActions i bs)[k]? = some (.bus (bufAccess .write (i + k) 1 (b.setWidth 32))) := by
  induction bs generalizing i k with
  | nil => cases h
  | cons c bs ih =>
    cases k with
    | zero =>
      cases h
      exact congrArg some (wr8Action_buf i b)
    | succ k =>
      rw [ldbufActions, List.getElem?_cons_succ, ih h, Nat.add_right_comm, Nat.add_assoc]

theorem ldbuf32Actions_length : ∀ (i : Nat) (bs : List Byte), (ldbuf32Actions i bs).length = bs.length / 4
  | i, b0 :: b1 :: b2 :: b3 :: rest => by
    simp only [ldbuf32Actions, List.length_cons, ldbuf32Actions_length (i + 4) rest]
    omega
  | _, [] | _, [_] | _, [_, _] | _, [_, _, _] => by simp [ldbuf32Actions]

/-- Entry `j` of the load writes group `j`. -/
theorem ldbuf32Actions_getElem? : ∀ (i : Nat) {j : Nat} {bs : List Byte}, j < bs.length / 4 →
    (ldbuf32Actions i bs)[j]? = some (.bus (bufAccess .write (i + 4 * j) 4
      (wordOfBytes (bs.getD (4 * j) 0) (bs.getD (4 * j + 1) 0) (bs.getD (4 * j + 2) 0) (bs.getD (4 * j + 3) 0))))
  | _, 0, _ :: _ :: _ :: _ :: _, _ => rfl
  | i, j + 1, b0 :: b1 :: b2 :: b3 :: rest, h => by
    have hj : j < rest.length / 4 := by
      simp only [List.length_cons] at h
      omega
    rw [ldbuf32Actions, List.getElem?_cons_succ, ldbuf32Actions_getElem? (i + 4) hj,
      show i + 4 + 4 * j = i + 4 * (j + 1) by omega]
    rfl
  | _, _, [], h | _, _, [_], h | _, _, [_, _], h | _, _, [_, _, _], h => by simp at h

theorem asciiBytes_getElem? {text : String} {k : Nat} {c : Char} (h : text.toList[k]? = some c) :
    (asciiBytes text)[k]? = some (BitVec.ofNat 8 c.toNat) := by
  rw [asciiBytes, List.getElem?_map, h]
  rfl

@[simp] theorem asciiBytes_length (text : String) : (asciiBytes text).length = text.toList.length := by
  rw [asciiBytes, List.length_map]

/-- The window ends where BUF ends (R23). -/
theorem inWindow_buf {i n : Nat} (h : i + n ≤ 4096) : inWindow (bufOffset + i) n = true :=
  decide_eq_true (by unfold bufOffset; omega)

theorem assembleLine_ldbufText {i : Nat} {text : String} (hascii : ∀ c ∈ text.toList, c.toNat < 128)
    (h : i + text.toList.length ≤ 4096) :
    assembleLine (.ldbufText i text) = some (ldbufActions i (asciiBytes text)) := by
  have hall : text.toList.all (fun c => decide (c.toNat < 128)) = true := by
    simpa only [List.all_eq_true, decide_eq_true_eq] using hascii
  rw [assembleLine, ← String.length_toList, hall, inWindow_buf h]
  rfl

theorem assembleLine_ldbuf {i : Nat} {bs : List Byte} (h : i + bs.length ≤ 4096) :
    assembleLine (.ldbuf i bs) = some (ldbufActions i bs) := by
  rw [assembleLine, if_pos (inWindow_buf h)]

theorem assembleLine_ldbuf32 {i : Nat} {bs : List Byte} (hi : i % 4 = 0) (hlen : bs.length % 4 = 0)
    (h : i + bs.length ≤ 4096) : assembleLine (.ldbuf32 i bs) = some (ldbuf32Actions i bs) := by
  rw [assembleLine, if_pos ⟨hi, hlen, inWindow_buf h⟩]

/-- Settles O60: the lines without a load by definition, the loads entry by entry. -/
theorem pseudoInstructionsExpand : Obligations.PseudoInstructionsExpand := by
  unfold Obligations.PseudoInstructionsExpand
  refine ⟨fun r w => rfl, fun w => ⟨rfl, rfl⟩, rfl, rfl, ?_, ?_, ?_⟩
  · intro i text hascii h
    refine ⟨_, assembleLine_ldbufText hascii h, by simp, fun k c hc => ?_⟩
    have hlt : c.toNat < 128 := hascii c (List.mem_of_getElem? hc)
    refine ⟨_, ldbufActions_getElem? (asciiBytes_getElem? hc), ?_⟩
    rw [BitVec.toNat_setWidth_of_le (by decide), BitVec.toNat_ofNat]
    omega
  · intro i bs h
    refine ⟨_, assembleLine_ldbuf h, ldbufActions_length i bs, fun k hk => ldbufActions_getElem? ?_⟩
    rw [List.getD_eq_getElem?_getD, List.getElem?_eq_getElem hk, Option.getD_some]
  · intro i bs hi hlen h
    exact ⟨_, assembleLine_ldbuf32 hi hlen h, ldbuf32Actions_length i bs, fun j hj =>
      ⟨_, ldbuf32Actions_getElem? i hj, wordOfBytes_toNat _ _ _ _⟩⟩

end Sys2Proof.Machine
end

section
/-!
SUPPORT. A command's life (40_command.md): its issue by a write to CMD, the turns of `wait` up to its completion, the
command that completion runs, and what a completion reports, writes and leaves alone.
-/

namespace Sys2Proof.Machine

/-! ### The command that a due completion runs (R103, R104) -/

theorem complete_of_legal {s : State} {i : Instr} (h : decode s.cmd = .ok i) : complete s = exec i s := by
  simp only [complete, h]

@[simp] theorem withFetchWord_cmd (s : State) (w : Nat) : (s.withFetchWord 32 w).cmd = BitVec.ofNat 32 w := by
  have hw : BitVec.ofNat 32 (w % 2 ^ 32) = BitVec.ofNat 32 w := BitVec.eq_of_toNat_eq (by simp)
  exact hw

theorem completionDue_withFetchWord (s : State) (nbits w : Nat) : completionDue (s.withFetchWord nbits w) = true :=
  completionDue_iff.mpr ⟨rfl, rfl, .inl rfl⟩

/-- Settles O5: a due completion is `complete`, and the completion of a placed word is due at once. -/
theorem stepRunsDecodedCommand : Obligations.StepRunsDecodedCommand := by
  unfold Obligations.StepRunsDecodedCommand
  constructor
  · intro s i hb hr hdue hi
    rw [step_of_completionDue (completionDue_iff.mpr ⟨hb, hr, hdue⟩), complete_of_legal hi]
  · intro s w i hi
    rw [step_of_completionDue (completionDue_withFetchWord s 32 w), complete_of_legal (by rwa [withFetchWord_cmd])]

/-! ### Waiting for a completion (R103, R93) -/

theorem SameEngine.trans {s t u : State} (hst : SameEngine s t) (htu : SameEngine t u) : SameEngine s u := by
  have key : ∀ host sched, SameEngine s { t with host := host, sched := sched } := fun host sched => by
    rw [hst]
    rfl
  rw [htu]
  exact key _ _

theorem completionDue_of_latency_pos {s : State} {a : HostAction} {rest : List HostAction}
    (ha : s.host.agenda = a :: rest) (hl : s.sched.latency ≠ 0) : completionDue s = false := by
  rw [Bool.eq_false_iff]
  intro hdue
  obtain ⟨-, -, h0 | hnil⟩ := completionDue_iff.mp hdue
  · exact hl h0
  · rw [ha] at hnil
    cases hnil

/-- While the pending command's completion is not due, a turn of `wait` is one read of STATUS and the host stays at the
loop. -/
theorem step_of_waiting {s : State} {rest : List HostAction} (hb : s.status.busy = true) (hr : s.rst = false)
    (ha : s.host.agenda = .wait :: rest) (hl : s.sched.latency ≠ 0) :
    step s = .next (noteTransaction .okay (readReg .STATUS s) (tick s)) := by
  rw [step_of_agenda_cons (completionDue_of_latency_pos ha hl) ha, perform, waitTurn_of_rst_low rest hr, hb, if_pos rfl]

theorem steps_succ_of_next {n : Nat} {s t : State} (h : step s = .next t) : steps (n + 1) s = steps n t := by
  rw [steps, h]

/-- Settles O12, by induction on the free latency: each turn of `wait` before the completion is due lowers it by one. -/
theorem waitReachesCompletion : Obligations.WaitReachesCompletion := by
  unfold Obligations.WaitReachesCompletion
  intro s rest hb hr ha
  generalize hn : s.sched.latency = n
  induction n generalizing s with
  | zero => exact ⟨s, rfl, rfl, completionDue_iff.mpr ⟨hb, hr, .inl hn⟩, rfl, rfl⟩
  | succ n ih =>
    have hstep := step_of_waiting hb hr ha (by omega)
    have hturn : SameEngine s (noteTransaction .okay (readReg .STATUS s) (tick s)) := rfl
    have hlatency : (noteTransaction .okay (readReg .STATUS s) (tick s)).sched.latency = n := by
      rw [noteTransaction_sched, tick_sched, hn, Nat.add_sub_cancel]
    obtain ⟨t, hsteps, hsame, hdue, hagenda, hpos⟩ :=
      ih (noteTransaction .okay (readReg .STATUS s) (tick s)) hb hr ha hlatency
    refine ⟨t, (steps_succ_of_next hstep).trans hsteps, hturn.trans hsame, hdue, hagenda, ?_⟩
    simp only [hpos, noteTransaction_host, tick_host]
    omega

/-! ### The two ends of a completion (R104, R105) -/

/-- What `raiseCause` writes, in the form in which the statements write a failure. -/
theorem raiseCause_eq_failedWith (c : Cause) (info : Word) (s : State) :
    raiseCause c info s = failedWith (causeCode c) info s := rfl

/-- The codes of the causes that the completion of a decoded command can fail with (R200). -/
theorem causeCode_range {c : Cause} (h : c ≠ .illegalCmd) : 2 ≤ (causeCode c).toNat ∧ (causeCode c).toNat ≤ 5 := by
  revert h
  cases c <;> decide

/-- The writes of a command change nothing but the outputs. -/
theorem Writes.frame {i : Instr} {s u : State} (hw : Writes i s u) :
    u = { s with buf := u.buf, chain := u.chain, outLen := u.outLen, trunc := u.trunc } := by
  cases i with
  | nop | sha1Init =>
    cases hw
    rfl
  | sha1Block =>
    obtain ⟨c, rfl⟩ := hw
    rfl
  | sha1Digest | hmacSha1 =>
    obtain ⟨c, -, rfl⟩ := hw
    unfold storeDigest
    generalize digestBytes c = bs
    rfl
  | ctrEnc | b32Dec =>
    obtain ⟨bs, -, rfl⟩ := hw
    rfl
  | trunc d =>
    obtain ⟨mac, -, rfl⟩ := hw
    rfl

/-- Settles O15: a failure is `raiseCause`, and a success is the command's writes (`Writes.frame`) and then `succeed`. -/
theorem commandSucceedsOrFailsPrecisely : Obligations.CommandSucceedsOrFailsPrecisely := by
  unfold Obligations.CommandSucceedsOrFailsPrecisely
  intro i s t h
  obtain ⟨c, info, hc, rfl, -⟩ | ⟨u, hw, rfl⟩ := exec_next h
  · exact .inl ⟨raiseCause_eq_failedWith c info s, causeCode_range hc⟩
  · rw [hw.frame]
    exact .inr rfl

/-! ### The destination region (R108) -/

/-- `t` has the BUF of `s`, or that BUF with a byte sequence written at DST which fits and whose length is OUT_LEN. -/
def WritesDestination (s t : State) : Prop :=
  t.buf = s.buf ∨ ∃ bs : List Byte, s.args.dst.toNat + bs.length ≤ 4096 ∧
    t.buf = s.buf.writeBytes s.args.dst.toNat bs ∧ t.outLen.toNat = bs.length

/-- OUT_LEN holds the length of a sequence that fits inside BUF in full. -/
theorem writesDestination_of_outLen {s t : State} {bs : List Byte} (hd : s.args.dst.toNat + bs.length ≤ Config.bufBytes)
    (hbuf : t.buf = s.buf.writeBytes s.args.dst.toNat bs) (hlen : t.outLen = BitVec.ofNat 32 bs.length) :
    WritesDestination s t := by
  have hsize : Config.bufBytes = 4096 := rfl
  refine .inr ⟨bs, hsize ▸ hd, hbuf, ?_⟩
  rw [hlen, BitVec.toNat_ofNat]
  omega

theorem Writes.destination {i : Instr} {s u : State} (hw : Writes i s u) : WritesDestination s u := by
  cases i with
  | nop | sha1Init | sha1Block | trunc d =>
    obtain ⟨-, hbuf⟩ := hw.outLen_buf (by simp)
    exact .inl hbuf
  | sha1Digest | hmacSha1 =>
    obtain ⟨c, hd, rfl⟩ := hw
    have hlen := digestBytes_length c
    exact writesDestination_of_outLen (by rwa [hlen]) (storeDigest_buf c s) (by rw [hlen, storeDigest_outLen])
  | ctrEnc | b32Dec =>
    obtain ⟨bs, hd, rfl⟩ := hw
    exact writesDestination_of_outLen hd rfl rfl

theorem exec_writesDestination {i : Instr} {s t : State} (h : exec i s = .next t) : WritesDestination s t := by
  obtain hf | ⟨u, hw, rfl⟩ := exec_next h
  · obtain ⟨-, hbuf, -, -⟩ := hf.outputs
    exact .inl hbuf
  · exact hw.destination

/-- Settles O17: outside the bytes written at DST, whose number OUT_LEN holds, BUF reads as before. -/
theorem bufWritesStayInDestination : Obligations.BufWritesStayInDestination := by
  unfold Obligations.BufWritesStayInDestination
  intro i s t h
  obtain hkept | ⟨bs, hd, hwritten, hlen⟩ := exec_writesDestination h
  · exact ⟨fun a _ => by rw [hkept], .inl hkept⟩
  · rw [hlen]
    exact ⟨fun a ha => by rw [hwritten, Memory.read_writeBytes_outside ha], .inr hd⟩

/-! ### NOP (R110) -/

/-- Settles O18: a word other than 0 with OP = 0 has DIG or RSV set, which R83 makes ILLEGAL. -/
theorem nopOnlyCompletes : Obligations.NopOnlyCompletes := by
  unfold Obligations.NopOnlyCompletes
  refine ⟨by decide, fun w hop hne => ?_, fun s => rfl⟩
  have hpos : w.toNat ≠ 0 := fun h => hne (BitVec.eq_of_toNat_eq h)
  rw [illegalWordsByField w]
  omega

/-! ### The bounds failures of SHA1.DIGEST and HMAC.SHA1 (R106) -/

section Regions
variable {s : State} {message key : List Byte}

theorem execSha1Digest_of_source_outside (h : 4096 < s.args.src.toNat + s.args.len.toNat) :
    execSha1Digest s = .next (raiseCause .bounds sourceRegion s) :=
  checkRegion_of_outside h

theorem execHmacSha1_of_source_outside (h : 4096 < s.args.src.toNat + s.args.len.toNat) :
    execHmacSha1 s = .next (raiseCause .bounds sourceRegion s) :=
  checkRegion_of_outside h

theorem execHmacSha1_of_key_outside (hsrc : s.args.src.toNat + s.args.len.toNat ≤ 4096)
    (hkey : 4096 < s.args.key.toNat + s.args.klen.toNat) :
    execHmacSha1 s = .next (raiseCause .bounds keyRegion s) := by
  rw [execHmacSha1, checkRegion_of_inBounds hsrc, checkRegion_of_outside hkey]

theorem execSha1Digest_of_dest_outside (hsrc : s.args.src.toNat + s.args.len.toNat ≤ 4096)
    (hm : s.buf.readBytes s.args.src.toNat s.args.len.toNat = .ok message) (hdst : 4096 < s.args.dst.toNat + 20) :
    execSha1Digest s = .next (raiseCause .bounds destRegion s) := by
  rw [execSha1Digest, checkRegion_of_inBounds hsrc, withBytes_of_read hm, checkRegion_of_outside hdst]

theorem execHmacSha1_of_dest_outside (hsrc : s.args.src.toNat + s.args.len.toNat ≤ 4096)
    (hkey : s.args.key.toNat + s.args.klen.toNat ≤ 4096)
    (hm : s.buf.readBytes s.args.src.toNat s.args.len.toNat = .ok message)
    (hk : s.buf.readBytes s.args.key.toNat s.args.klen.toNat = .ok key) (hdst : 4096 < s.args.dst.toNat + 20) :
    execHmacSha1 s = .next (raiseCause .bounds destRegion s) := by
  rw [execHmacSha1, checkRegion_of_inBounds hsrc, checkRegion_of_inBounds hkey, withBytes_of_read hm,
    withBytes_of_read hk, checkRegion_of_outside hdst]

end Regions

/-- Settles O26: one lemma per failure, each stopping at the first check of R106 that fails. -/
theorem digestAndHmacBoundsInOrder : Obligations.DigestAndHmacBoundsInOrder := by
  unfold Obligations.DigestAndHmacBoundsInOrder
  refine ⟨?_, ?_, ?_, ?_⟩
  · intro s hsrc
    exact ⟨execSha1Digest_of_source_outside hsrc, execHmacSha1_of_source_outside hsrc⟩
  · intro s hsrc hkey
    exact execHmacSha1_of_key_outside hsrc hkey
  · intro s message hsrc hm hdst
    exact execSha1Digest_of_dest_outside hsrc hm hdst
  · intro s key message hsrc hkey hm hk hdst
    exact execHmacSha1_of_dest_outside hsrc hkey hm hk hdst

/-! ### Unwritten input bytes (R107) -/

/-- The lowest unwritten index of a region, in the form in which the statements write it. -/
theorem readBytes_error_of_lowest {m : Memory} {a n i : Nat} (hlo : a ≤ i) (hhi : i < a + n) (hi : m.read i = none)
    (hlow : ∀ j, a ≤ j → j < i → m.read j ≠ none) : m.readBytes a n = .error i :=
  Memory.readBytes_error_iff.mpr ⟨hlo, hhi, hi, fun j h1 h2 => Option.isSome_iff_ne_none.mpr (hlow j h1 h2)⟩

/-- An in-bounds region with an unwritten byte stops the command, whatever it would do with the bytes. -/
theorem readRegion_unwritten {which base : Word} {n i : Nat} {s : State} {k : List Byte → Result}
    (hin : base.toNat + n ≤ 4096) (hread : s.buf.readBytes base.toNat n = .error i) :
    checkRegion which base n s (withBytes base n s k) = .fault (.uninitRead i) := by
  rw [checkRegion_of_inBounds hin, withBytes_of_unwritten hread]

section Unwritten
variable {s : State} {i : Nat}

theorem execTrunc_of_unwritten {d : BitVec 4} (hd : 1 ≤ d.toNat ∧ d.toNat ≤ 9) (hin : s.args.src.toNat + 20 ≤ 4096)
    (hread : s.buf.readBytes s.args.src.toNat 20 = .error i) : execTrunc d s = .fault (.uninitRead i) := by
  rw [execTrunc, checkDigits_of_legal hd, readRegion_unwritten hin hread]

theorem execHmacSha1_of_unwritten_source (hin : s.args.src.toNat + s.args.len.toNat ≤ 4096)
    (hkey : s.args.key.toNat + s.args.klen.toNat ≤ 4096)
    (hread : s.buf.readBytes s.args.src.toNat s.args.len.toNat = .error i) :
    execHmacSha1 s = .fault (.uninitRead i) := by
  rw [execHmacSha1, checkRegion_of_inBounds hin, checkRegion_of_inBounds hkey, withBytes_of_unwritten hread]

theorem execHmacSha1_of_unwritten_key {message : List Byte} (hin : s.args.src.toNat + s.args.len.toNat ≤ 4096)
    (hkey : s.args.key.toNat + s.args.klen.toNat ≤ 4096)
    (hm : s.buf.readBytes s.args.src.toNat s.args.len.toNat = .ok message)
    (hread : s.buf.readBytes s.args.key.toNat s.args.klen.toNat = .error i) :
    execHmacSha1 s = .fault (.uninitRead i) := by
  rw [execHmacSha1, checkRegion_of_inBounds hin, withBytes_of_read hm, readRegion_unwritten hkey hread]

end Unwritten

/-- Settles O29: the region read fails at its lowest unwritten index, and each command reads it before any later check. -/
theorem unwrittenSourceByteFaults : Obligations.UnwrittenSourceByteFaults := by
  unfold Obligations.UnwrittenSourceByteFaults
  constructor
  · intro s i n hin hlo hhi hi hlow
    have hread := readBytes_error_of_lowest hlo hhi hi hlow
    refine ⟨?_, ?_, ?_, ?_, ?_⟩
    · rintro rfl
      exact readRegion_unwritten hin hread
    · rintro rfl
      exact readRegion_unwritten hin hread
    · rintro rfl hkey
      exact execHmacSha1_of_unwritten_source hin hkey hread
    · rintro rfl
      exact readRegion_unwritten hin hread
    · rintro rfl d hd1 hd9
      exact execTrunc_of_unwritten ⟨hd1, hd9⟩ hin hread
  · intro s message i hin hkey hm hlo hhi hi hlow
    exact execHmacSha1_of_unwritten_key hin hkey hm (readBytes_error_of_lowest hlo hhi hi hlow)

/-! ### The issue of a command (R101) -/

theorem writeReg_cmd_of_idle {s : State} (w : Word) (hi : s.status.busy = false) : writeReg .CMD w s = issue w s :=
  unlessBusy_of_idle hi

/-- Settles O54: an idle engine takes the write as `issue`, and a busy one drops it (`writeReg_dropped`). -/
theorem cmdWriteIssues : Obligations.CmdWriteIssues := by
  unfold Obligations.CmdWriteIssues
  constructor
  · intro s w hr hi
    obtain ⟨ht, hok⟩ := transaction_regAccess_write .CMD w hr
    rw [writeReg_cmd_of_idle w (s := tick s) hi] at ht hok
    exact ⟨_, ht, hok, rfl, fun e he => complete_of_illegal he⟩
  · intro s w hr hb
    obtain ⟨ht, hok⟩ := transaction_regAccess_write .CMD w hr
    rw [writeReg_dropped w (s := tick s) hb (.inl rfl)] at ht hok
    refine ⟨_, ht, hok, ?_⟩
    rw [← statusAfterDrop_of_busy hb]
    rfl

end Sys2Proof.Machine
end

section
/-!
SUPPORT. The Base32 decoder (41_base32.md): the classes of bytes, which secrets are rejected and what the others give, the
packing of values, the outcomes of B32.DEC, and its agreement with the canonical encoding.
-/

namespace Sys2Proof.Machine

/-! ### The class of a byte (R120) -/

/-- The value of a character, by its distance from the first one of its range. -/
theorem setWidth_sub_eq_ofNat {c : Byte} (k : Byte) (h : k.toNat ≤ c.toNat) :
    (c - k).setWidth 5 = BitVec.ofNat 5 (c.toNat - k.toNat) := by
  rw [← BitVec.toNat_sub_of_le h, BitVec.ofNat_toNat]

section Classes
variable {c : Byte}

/-- `b32Class` by numbers. -/
theorem b32Class_eq : b32Class c =
    if c.toNat = 0x3D then .padding
    else if 0x41 ≤ c.toNat ∧ c.toNat ≤ 0x5A then .value (BitVec.ofNat 5 (c.toNat - 0x41))
    else if 0x61 ≤ c.toNat ∧ c.toNat ≤ 0x7A then .value (BitVec.ofNat 5 (c.toNat - 0x61))
    else if 0x32 ≤ c.toNat ∧ c.toNat ≤ 0x37 then .value (BitVec.ofNat 5 (c.toNat - 0x32 + 26))
    else .invalid := by
  refine ite_congr (propext BitVec.toNat_inj.symm) (fun _ => rfl) fun _ => ?_
  refine ite_congr rfl (fun h => congrArg _ (setWidth_sub_eq_ofNat 0x41 h.1)) fun _ => ?_
  refine ite_congr rfl (fun h => congrArg _ (setWidth_sub_eq_ofNat 0x61 h.1)) fun _ => ?_
  refine ite_congr rfl (fun h => congrArg _ ?_) fun _ => rfl
  rw [BitVec.setWidth_add _ _ (by decide), setWidth_sub_eq_ofNat 0x32 h.1, BitVec.ofNat_add]
  rfl

theorem b32Class_padding (h : c.toNat = 0x3D) : b32Class c = .padding := by
  rw [b32Class_eq, if_pos h]

theorem b32Class_upper (hlo : 0x41 ≤ c.toNat) (hhi : c.toNat ≤ 0x5A) :
    b32Class c = .value (BitVec.ofNat 5 (c.toNat - 0x41)) := by
  rw [b32Class_eq, if_neg (by omega), if_pos ⟨hlo, hhi⟩]

theorem b32Class_lower (hlo : 0x61 ≤ c.toNat) (hhi : c.toNat ≤ 0x7A) :
    b32Class c = .value (BitVec.ofNat 5 (c.toNat - 0x61)) := by
  rw [b32Class_eq, if_neg (by omega), if_neg (by omega), if_pos ⟨hlo, hhi⟩]

theorem b32Class_digit (hlo : 0x32 ≤ c.toNat) (hhi : c.toNat ≤ 0x37) :
    b32Class c = .value (BitVec.ofNat 5 (c.toNat - 0x32 + 26)) := by
  rw [b32Class_eq, if_neg (by omega), if_neg (by omega), if_neg (by omega), if_pos ⟨hlo, hhi⟩]

theorem b32Class_other (h : ¬(c.toNat = 0x3D ∨ (0x41 ≤ c.toNat ∧ c.toNat ≤ 0x5A) ∨
    (0x61 ≤ c.toNat ∧ c.toNat ≤ 0x7A) ∨ (0x32 ≤ c.toNat ∧ c.toNat ≤ 0x37))) : b32Class c = .invalid := by
  rw [b32Class_eq, if_neg (by omega), if_neg (by omega), if_neg (by omega), if_neg (by omega)]

end Classes

/-- Settles O39: one lemma per range. -/
theorem base32Classes : Obligations.Base32Classes := by
  unfold Obligations.Base32Classes
  exact fun c => ⟨b32Class_padding, b32Class_upper, b32Class_lower, b32Class_digit, b32Class_other⟩

/-- Lower-casing keeps the class and the value of a byte (R128). -/
theorem b32Class_lowerCase (c : Byte) : b32Class (lowerCase c) = b32Class c := by
  unfold lowerCase
  split
  · rename_i h
    obtain ⟨hlo : 0x41 ≤ c.toNat, hhi : c.toNat ≤ 0x5A⟩ := h
    have hc : (c + 0x20).toNat = c.toNat + 0x20 := BitVec.toNat_add_of_lt (by simp; omega)
    rw [b32Class_lower (by omega) (by omega), b32Class_upper hlo hhi, hc,
      show c.toNat + 0x20 - 0x61 = c.toNat - 0x41 by omega]
  · rfl

/-! ### The values of a secret (R121, R122) -/

/-- The value of a significant character; `none` for any other byte. -/
def B32Class.value? : B32Class → Option (BitVec 5)
  | .value v => some v
  | .padding => none
  | .invalid => none

section Cons
variable {c : Byte} {i j : Nat} {cs : List Byte}

theorem b32Values_cons_of_invalid (h : b32Class c = .invalid) : b32Values i (c :: cs) = .error i := by
  simp only [b32Values, h]

/-- A byte that is not invalid contributes its value, if it has one, to what the rest gives. -/
theorem b32Values_cons_of_valid (h : b32Class c ≠ .invalid) :
    b32Values i (c :: cs) = (b32Values (i + 1) cs).map ((b32Class c).value?.toList ++ ·) := by
  cases hc : b32Class c with
  | invalid => exact absurd hc h
  | padding =>
    simp only [b32Values, hc]
    cases b32Values (i + 1) cs <;> rfl
  | value v =>
    simp only [b32Values, hc]
    cases b32Values (i + 1) cs <;> rfl

theorem b32Values_cons_error_iff (h : b32Class c ≠ .invalid) :
    b32Values i (c :: cs) = .error j ↔ b32Values (i + 1) cs = .error j := by
  rw [b32Values_cons_of_valid h]
  cases b32Values (i + 1) cs <;> simp [Except.map]

end Cons

/-- A secret whose first byte has index `k` is rejected `i` bytes further on exactly where the first invalid byte is. -/
theorem b32Values_error_iff {cs : List Byte} {k i : Nat} :
    b32Values k cs = .error (k + i) ↔ i < cs.length ∧ b32Class (cs.getD i 0) = .invalid ∧
      ∀ j, j < i → b32Class (cs.getD j 0) ≠ .invalid := by
  induction cs generalizing k i with
  | nil => simp [b32Values]
  | cons c cs ih =>
    by_cases hc : b32Class c = .invalid
    · rw [b32Values_cons_of_invalid hc]
      cases i with
      | zero => simp [hc]
      | succ i =>
        exact iff_of_false (by simp) fun ⟨_, _, hbefore⟩ => hbefore 0 i.succ_pos hc
    · rw [b32Values_cons_error_iff hc]
      cases i with
      | zero =>
        refine iff_of_false (fun h => ?_) fun ⟨_, hinv, _⟩ => hc hinv
        obtain ⟨hle, -⟩ := b32Values_error_lt h
        omega
      | succ i =>
        rw [show k + (i + 1) = k + 1 + i by omega, ih, Nat.forall_lt_succ_left]
        simp [hc]

/-- Settles O40: `b32Values_error_iff` from index 0, and the classes of the listed bytes. -/
theorem base32FirstInvalid : Obligations.Base32FirstInvalid := by
  unfold Obligations.Base32FirstInvalid
  refine ⟨fun secret i => ?_, by decide, fun c hc => b32Class_other (by omega)⟩
  rw [← b32Values_error_iff, Nat.zero_add]

/-- `Except.map` answers a value exactly where its argument does. -/
theorem exceptMap_eq_ok_iff {ε α β : Type} {f : α → β} {x : Except ε α} {b : β} :
    x.map f = .ok b ↔ ∃ a, x = .ok a ∧ f a = b := by
  cases x <;> simp [Except.map]

/-- A secret without an invalid byte gives its values in order, and no other secret gives any. -/
theorem b32Values_ok_iff {cs : List Byte} {i : Nat} {vs : List (BitVec 5)} :
    b32Values i cs = .ok vs ↔
      (∀ c ∈ cs, b32Class c ≠ .invalid) ∧ vs = cs.filterMap fun c => (b32Class c).value? := by
  induction cs generalizing i vs with
  | nil => simp [b32Values, eq_comm]
  | cons c cs ih =>
    by_cases hc : b32Class c = .invalid
    · rw [b32Values_cons_of_invalid hc]
      exact iff_of_false nofun fun ⟨hall, _⟩ => hall c List.mem_cons_self hc
    · have hcons : (c :: cs).filterMap (fun c => (b32Class c).value?) =
          (b32Class c).value?.toList ++ cs.filterMap fun c => (b32Class c).value? := by
        rw [List.filterMap_cons]
        cases (b32Class c).value? <;> rfl
      rw [b32Values_cons_of_valid hc, exceptMap_eq_ok_iff, hcons, List.forall_mem_cons]
      simp only [ih]
      constructor
      · rintro ⟨_, ⟨hall, rfl⟩, rfl⟩
        exact ⟨⟨hc, hall⟩, rfl⟩
      · rintro ⟨⟨-, hall⟩, rfl⟩
        exact ⟨_, ⟨hall, rfl⟩, rfl⟩

/-- Settles O41: `b32Values_ok_iff`, whose `value?` is the match of the statement. -/
theorem base32StripsPadding : Obligations.Base32StripsPadding := by
  unfold Obligations.Base32StripsPadding
  exact fun secret vs => b32Values_ok_iff

/-- Settles O43, byte by byte: lower-casing keeps each class (`b32Class_lowerCase`). -/
theorem base32CaseInsensitive : Obligations.Base32CaseInsensitive := by
  unfold Obligations.Base32CaseInsensitive
  intro secret i
  induction secret generalizing i with
  | nil => rfl
  | cons c cs ih => simp only [List.map_cons, b32Values, b32Class_lowerCase, ih]

/-! ### Big-endian numbers -/

section BigEndian
variable {w : Nat}

/-- The number whose base-2^w digits are `ds`, most significant first. -/
def ofDigitsBE (ds : List (BitVec w)) : Nat := ds.foldl (fun x d => x * 2 ^ w + d.toNat) 0

/-- The lowest `n` base-2^w digits of `x`, most significant first. -/
def digitsBE (w x n : Nat) : List (BitVec w) :=
  (List.range n).map fun j => BitVec.ofNat w (x / 2 ^ (w * (n - 1 - j)))

theorem foldl_digits_eq (x : Nat) (ds : List (BitVec w)) :
    ds.foldl (fun x d => x * 2 ^ w + d.toNat) x = x * 2 ^ (w * ds.length) + ofDigitsBE ds := by
  induction ds generalizing x with
  | nil => simp [ofDigitsBE]
  | cons d ds ih =>
    rw [ofDigitsBE, List.foldl_cons, List.foldl_cons, ih, ih (0 * 2 ^ w + d.toNat), List.length_cons, Nat.zero_mul,
      Nat.zero_add, Nat.mul_succ, Nat.pow_add', Nat.add_mul, Nat.mul_assoc, Nat.add_assoc]

theorem ofDigitsBE_cons (d : BitVec w) (ds : List (BitVec w)) :
    ofDigitsBE (d :: ds) = d.toNat * 2 ^ (w * ds.length) + ofDigitsBE ds := by
  rw [ofDigitsBE, List.foldl_cons, foldl_digits_eq, Nat.zero_mul, Nat.zero_add]

theorem ofDigitsBE_lt (ds : List (BitVec w)) : ofDigitsBE ds < 2 ^ (w * ds.length) := by
  induction ds with
  | nil => simp [ofDigitsBE]
  | cons d ds ih =>
    rw [ofDigitsBE_cons, List.length_cons, Nat.mul_succ, Nat.pow_add']
    have hd : d.toNat + 1 ≤ 2 ^ w := d.isLt
    calc d.toNat * 2 ^ (w * ds.length) + ofDigitsBE ds
        < (d.toNat + 1) * 2 ^ (w * ds.length) := by rw [Nat.succ_mul]; omega
      _ ≤ 2 ^ w * 2 ^ (w * ds.length) := Nat.mul_le_mul_right _ hd

theorem ofDigitsBE_eq_sum (ds : List (BitVec w)) :
    ofDigitsBE ds =
      ((List.range ds.length).map fun j => (ds.getD j 0).toNat * 2 ^ (w * (ds.length - 1 - j))).sum := by
  induction ds with
  | nil => rfl
  | cons d ds ih =>
    rw [ofDigitsBE_cons, ih, List.length_cons, List.range_succ_eq_map, List.map_cons, List.sum_cons, List.map_map]
    congr 3
    funext j
    simp only [Function.comp_apply, List.getD_cons_succ]
    congr 3
    omega

@[simp] theorem digitsBE_length (x n : Nat) : (digitsBE w x n).length = n := by simp [digitsBE]

theorem digitsBE_succ (x n : Nat) : digitsBE w x (n + 1) = BitVec.ofNat w (x / 2 ^ (w * n)) :: digitsBE w x n := by
  rw [digitsBE, List.range_succ_eq_map, List.map_cons, List.map_map]
  congr 1
  refine List.map_congr_left fun j _ => ?_
  simp only [Function.comp_apply]
  congr 4
  omega

/-- The digits of a number give it back, modulo 2^(w n). -/
theorem ofDigitsBE_digitsBE (x n : Nat) : ofDigitsBE (digitsBE w x n) = x % 2 ^ (w * n) := by
  induction n with
  | zero => simp [digitsBE, ofDigitsBE, Nat.mod_one]
  | succ n ih =>
    rw [digitsBE_succ, ofDigitsBE_cons, ih, digitsBE_length, BitVec.toNat_ofNat, Nat.mul_succ, Nat.pow_add, Nat.mod_mul,
      Nat.mul_comm (2 ^ (w * n)), Nat.add_comm]

theorem ofDigitsBE_injective {ds es : List (BitVec w)} (hlen : ds.length = es.length)
    (h : ofDigitsBE ds = ofDigitsBE es) : ds = es := by
  induction ds generalizing es with
  | nil => exact (List.length_eq_zero_iff.mp hlen.symm).symm
  | cons d ds ih =>
    cases es with
    | nil => simp at hlen
    | cons e es =>
      have hlen : ds.length = es.length := by simpa using hlen
      have hds := ofDigitsBE_lt ds
      rw [hlen] at hds
      rw [ofDigitsBE_cons, ofDigitsBE_cons, hlen] at h
      have htail : ofDigitsBE ds = ofDigitsBE es := by
        have hmod := congrArg (· % 2 ^ (w * es.length)) h
        simpa only [Nat.mul_add_mod_self_right, Nat.mod_eq_of_lt, hds, ofDigitsBE_lt es] using hmod
      rw [htail, Nat.add_right_cancel_iff] at h
      rw [BitVec.eq_of_toNat_eq (Nat.eq_of_mul_eq_mul_right (Nat.two_pow_pos _) h), ih hlen htail]

/-- A digit list is the digits of its number. -/
theorem digitsBE_ofDigitsBE (ds : List (BitVec w)) : digitsBE w (ofDigitsBE ds) ds.length = ds :=
  ofDigitsBE_injective (digitsBE_length _ _) <| by
    rw [ofDigitsBE_digitsBE, Nat.mod_eq_of_lt (ofDigitsBE_lt ds)]

end BigEndian

/-! ### The packing of values (R125) -/

/-- The bytes of a block are the digits of its number without the leftover low bits. -/
theorem b32Block_eq_digitsBE (vs : List (BitVec 5)) :
    b32Block vs = digitsBE 8 (ofDigitsBE vs / 2 ^ (5 * vs.length % 8)) (5 * vs.length / 8) := by
  refine List.map_congr_left fun t ht => congrArg (BitVec.ofNat 8) ?_
  have ht : t < 5 * vs.length / 8 := List.mem_range.mp ht
  rw [Nat.shiftRight_eq_div_pow, Nat.div_div_eq_div_mul, ← Nat.pow_add,
    show 5 * vs.length - 8 * (t + 1) = 5 * vs.length % 8 + 8 * (5 * vs.length / 8 - 1 - t) by omega]
  rfl

/-- Byte `t` of a block, by the block's number. -/
theorem b32Block_getD_toNat {vs : List (BitVec 5)} {t : Nat} (ht : t < 5 * vs.length / 8) :
    ((b32Block vs).getD t 0).toNat = ofDigitsBE vs / 2 ^ (5 * vs.length - 8 * (t + 1)) % 256 := by
  simp only [b32Block, List.getD_eq_getElem?_getD, List.getElem?_map, List.getElem?_range ht, Option.map_some,
    Option.getD_some, BitVec.toNat_ofNat, Nat.shiftRight_eq_div_pow]
  rfl

theorem b32Bytes_append {a : List (BitVec 5)} (b : List (BitVec 5)) (h : a.length = 8) :
    b32Bytes (a ++ b) = b32Block a ++ b32Bytes b := by
  have hcount : (a ++ b).length / 8 = b.length / 8 + 1 := by
    rw [List.length_append, h]
    omega
  rw [b32Bytes, hcount, b32Blocks, List.take_left' h, List.drop_left' h, b32Bytes]

theorem b32Bytes_of_short {b : List (BitVec 5)} (h : b.length < 8) : b32Bytes b = b32Block b := by
  rw [b32Bytes, Nat.div_eq_of_lt h, b32Blocks]

/-- Settles O42: the number of a block is the sum of its values times their powers of 32 (`ofDigitsBE_eq_sum`). -/
theorem base32Packing : Obligations.Base32Packing := by
  unfold Obligations.Base32Packing
  refine ⟨fun a b => b32Bytes_append b, fun b => b32Bytes_of_short, fun vs => ⟨b32Block_length vs, fun t ht => ?_⟩⟩
  rw [b32Block_getD_toNat ht, ofDigitsBE_eq_sum]

/-! ### The outcomes of B32.DEC (R106, R126) -/

/-- A last block is malformed for these three sizes only (R123). -/
theorem b32BadCount_iff {r : Nat} : b32BadCount r = true ↔ r = 1 ∨ r = 3 ∨ r = 6 := by
  simp only [b32BadCount, Bool.or_eq_true, beq_iff_eq, or_assoc]

theorem execB32Dec_of_source_outside {s : State} (h : 4096 < s.args.src.toNat + s.args.len.toNat) :
    execB32Dec s = .next (raiseCause .bounds sourceRegion s) :=
  checkRegion_of_outside h

section Readable
variable {s : State} {secret : List Byte} (hin : s.args.src.toNat + s.args.len.toNat ≤ 4096)
  (hread : s.buf.readBytes s.args.src.toNat s.args.len.toNat = .ok secret)
include hin hread

theorem execB32Dec_of_invalid {i : Nat} (hv : b32Values 0 secret = .error i) :
    execB32Dec s = .next (raiseCause .invalidChar (BitVec.ofNat 32 i) s) := by
  rw [execB32Dec, checkRegion_of_inBounds hin, withBytes_of_read hread]
  simp only [hv]

variable {vs : List (BitVec 5)} (hv : b32Values 0 secret = .ok vs)
include hv

theorem execB32Dec_of_malformed (hc : vs.length % 8 = 1 ∨ vs.length % 8 = 3 ∨ vs.length % 8 = 6) :
    execB32Dec s = .next (raiseCause .invalidLength (BitVec.ofNat 32 (vs.length % 8)) s) := by
  rw [execB32Dec, checkRegion_of_inBounds hin, withBytes_of_read hread]
  simp only [hv, b32BadCount_iff.mpr hc, if_true]

/-- With a well-formed last block only the destination's bounds are left to check. -/
theorem execB32Dec_of_wellFormed (hc : ¬(vs.length % 8 = 1 ∨ vs.length % 8 = 3 ∨ vs.length % 8 = 6)) :
    execB32Dec s = checkRegion destRegion s.args.dst (b32Length vs.length) s
      (.next (succeed (setOutLen (b32Length vs.length) (storeBytes s.args.dst (b32Bytes vs) s)))) := by
  rw [execB32Dec, checkRegion_of_inBounds hin, withBytes_of_read hread]
  simp only [hv, b32BadCount_iff, hc, if_false]

end Readable

/-- Settles O27: one lemma per failure, each stopping at the first check that fails. -/
theorem b32DecFailuresInOrder : Obligations.B32DecFailuresInOrder := by
  unfold Obligations.B32DecFailuresInOrder
  refine ⟨fun s => execB32Dec_of_source_outside, ?_, ?_⟩
  · intro s secret i hin hread hv
    refine ⟨_, execB32Dec_of_invalid hin hread hv, rfl, ?_⟩
    have hlen := Memory.length_of_readBytes hread
    obtain ⟨-, hi⟩ := b32Values_error_lt hv
    rw [raiseCause_errInfo, BitVec.toNat_ofNat]
    omega
  · intro s secret vs hin hread hv
    refine ⟨execB32Dec_of_malformed hin hread hv, fun hc hdst => ?_⟩
    exact (execB32Dec_of_wellFormed hin hread hv hc).trans (checkRegion_of_outside hdst)

/-- Settles O24: the laws of `writeBytes` over as many bytes as OUT_LEN says (`b32Bytes_length`). -/
theorem b32DecCompletes : Obligations.B32DecCompletes := by
  unfold Obligations.B32DecCompletes
  intro s secret vs hin hread hv h1 h3 h6 hdst
  have hexec := (execB32Dec_of_wellFormed hin hread hv (by omega)).trans (checkRegion_of_inBounds hdst)
  have hlen : (b32Bytes vs).length = 5 * vs.length / 8 := b32Bytes_length vs
  refine ⟨_, hexec, rfl, ?_, ?_, fun a ha => ?_⟩
  · rw [succeed_outLen, setOutLen_outLen, BitVec.toNat_ofNat, b32Length]
    omega
  · rw [← hlen]
    exact Memory.readBytes_writeBytes _ _ _
  · exact Memory.read_writeBytes_outside (hlen.symm ▸ ha)

/-! ### The canonical encoding (R127) -/

/-- The values of the characters of a canonical block: its bits in groups of five, the last one filled with zeros. -/
def b32BlockValues (bs : List Byte) : List (BitVec 5) :=
  digitsBE 5 (ofDigitsBE bs * 2 ^ (5 * ((8 * bs.length + 4) / 5) - 8 * bs.length)) ((8 * bs.length + 4) / 5)

theorem b32BlockValues_length (bs : List Byte) : (b32BlockValues bs).length = (8 * bs.length + 4) / 5 :=
  digitsBE_length _ _

theorem b32EncodeBlock_eq (bs : List Byte) :
    b32EncodeBlock bs = (b32BlockValues bs).map (fun v => b32Char v.toNat) ++
      List.replicate (8 - (8 * bs.length + 4) / 5) 0x3D := by
  rw [b32BlockValues, digitsBE, List.map_map]
  rfl

theorem ofDigitsBE_b32BlockValues (bs : List Byte) :
    ofDigitsBE (b32BlockValues bs) = ofDigitsBE bs * 2 ^ (5 * ((8 * bs.length + 4) / 5) - 8 * bs.length) := by
  rw [b32BlockValues, ofDigitsBE_digitsBE]
  refine Nat.mod_eq_of_lt ?_
  have hsplit : 5 * ((8 * bs.length + 4) / 5) =
      8 * bs.length + (5 * ((8 * bs.length + 4) / 5) - 8 * bs.length) := by omega
  calc ofDigitsBE bs * 2 ^ (5 * ((8 * bs.length + 4) / 5) - 8 * bs.length)
      < 2 ^ (8 * bs.length) * 2 ^ (5 * ((8 * bs.length + 4) / 5) - 8 * bs.length) :=
        Nat.mul_lt_mul_of_pos_right (ofDigitsBE_lt bs) (Nat.two_pow_pos _)
    _ = 2 ^ (5 * ((8 * bs.length + 4) / 5)) := by rw [← Nat.pow_add, ← hsplit]

/-- The zero bits filled in are the leftover bits that decoding discards. -/
theorem b32Block_b32BlockValues (bs : List Byte) : b32Block (b32BlockValues bs) = bs := by
  have hbytes : 5 * ((8 * bs.length + 4) / 5) / 8 = bs.length := by omega
  have hleft : 5 * ((8 * bs.length + 4) / 5) % 8 = 5 * ((8 * bs.length + 4) / 5) - 8 * bs.length := by omega
  rw [b32Block_eq_digitsBE, b32BlockValues_length, hbytes, hleft, ofDigitsBE_b32BlockValues,
    Nat.mul_div_cancel _ (Nat.two_pow_pos _), digitsBE_ofDigitsBE]

theorem b32Class_b32Char (v : BitVec 5) : b32Class (b32Char v.toNat) = .value v := by
  revert v
  decide

/-- Decoding the characters of values gives the values back. -/
theorem filterMap_b32Char (vs : List (BitVec 5)) :
    (vs.map fun v => b32Char v.toNat).filterMap (fun c => (b32Class c).value?) = vs := by
  induction vs with
  | nil => rfl
  | cons v vs ih =>
    have hv : (b32Class (b32Char v.toNat)).value? = some v := congrArg B32Class.value? (b32Class_b32Char v)
    rw [List.map_cons, List.filterMap_cons_some (f := fun c => (b32Class c).value?) hv, ih]

/-- The `=` characters that fill a block give no value. -/
theorem filterMap_padding (n : Nat) : (List.replicate n 0x3D).filterMap (fun c => (b32Class c).value?) = [] :=
  List.filterMap_replicate_of_none rfl

/-- A canonical block, with what follows it, gives its values and then the values of what follows. -/
theorem b32Values_b32EncodeBlock_append (bs : List Byte) {i : Nat} {cs : List Byte} {vs : List (BitVec 5)}
    (h : b32Values i cs = .ok vs) : b32Values i (b32EncodeBlock bs ++ cs) = .ok (b32BlockValues bs ++ vs) := by
  obtain ⟨hvalid, rfl⟩ := b32Values_ok_iff.mp h
  rw [b32EncodeBlock_eq, b32Values_ok_iff]
  constructor
  · intro c hc
    obtain (hc | hc) | hc := (List.mem_append.trans (or_congr_left List.mem_append)).mp hc
    · obtain ⟨v, -, rfl⟩ := List.mem_map.mp hc
      rw [b32Class_b32Char]
      exact nofun
    · rw [(List.mem_replicate.mp hc).2]
      decide
    · exact hvalid c hc
  · rw [List.filterMap_append, List.filterMap_append, filterMap_b32Char, filterMap_padding, List.append_nil]

/-- The secret has no invalid byte and a well-formed last block, and its values pack into the given bytes. -/
def DecodesTo (secret bytes : List Byte) : Prop :=
  ∃ vs, b32Values 0 secret = .ok vs ∧ b32Bytes vs = bytes ∧
    ¬(vs.length % 8 = 1 ∨ vs.length % 8 = 3 ∨ vs.length % 8 = 6)

theorem decodesTo_shortBlock {bs : List Byte} (h : 1 ≤ bs.length ∧ bs.length ≤ 4) :
    DecodesTo (b32EncodeBlock bs) bs := by
  have hlen := b32BlockValues_length bs
  have hv := b32Values_b32EncodeBlock_append bs (i := 0) (cs := []) rfl
  rw [List.append_nil, List.append_nil] at hv
  refine ⟨_, hv, ?_, by omega⟩
  rw [b32Bytes_of_short (by omega), b32Block_b32BlockValues]

theorem decodesTo_fullBlock {bs secret bytes : List Byte} (h : bs.length = 5) (hrest : DecodesTo secret bytes) :
    DecodesTo (b32EncodeBlock bs ++ secret) (bs ++ bytes) := by
  obtain ⟨vs, hv, hbytes, hcount⟩ := hrest
  have hlen : (b32BlockValues bs).length = 8 := by rw [b32BlockValues_length, h]
  refine ⟨_, b32Values_b32EncodeBlock_append bs hv, ?_, ?_⟩
  · rw [b32Bytes_append vs hlen, b32Block_b32BlockValues, hbytes]
  · rw [List.length_append, hlen]
    omega

theorem decodesTo_b32Encode : ∀ bytes : List Byte, DecodesTo (b32Encode bytes) bytes
  | b0 :: b1 :: b2 :: b3 :: b4 :: rest =>
    decodesTo_fullBlock (bs := [b0, b1, b2, b3, b4]) rfl (decodesTo_b32Encode rest)
  | [] => ⟨[], rfl, rfl, by decide⟩
  | [_] | [_, _] | [_, _, _] | [_, _, _, _] => decodesTo_shortBlock (by simp)

/-- Settles O44: the canonical encoding decodes to its bytes (`decodesTo_b32Encode`), and B32.DEC completes on it (O24). -/
theorem base32RoundTrip : Obligations.Base32RoundTrip := by
  unfold Obligations.Base32RoundTrip
  intro s bytes hin hread hdst
  obtain ⟨vs, hv, hbytes, hcount⟩ := decodesTo_b32Encode bytes
  have hlen : bytes.length = 5 * vs.length / 8 := hbytes ▸ b32Bytes_length vs
  obtain ⟨t, hexec, ht, hout, hmem, -⟩ :=
    b32DecCompletes s _ vs hin hread hv (by omega) (by omega) (by omega) (hlen ▸ hdst)
  refine ⟨t, hexec, by rw [ht, doneStatus], hlen ▸ hout, ?_⟩
  rw [hlen, hmem, hbytes]

end Sys2Proof.Machine
end

section
/-!
SUPPORT. The big-endian bytes of a 64-bit value by number (R9, R141), and the two outcomes of CTR.ENC (R142).
-/

namespace Sys2Proof.Machine

/-! ### The bytes of a 64-bit value -/

theorem digitsBE_getD_toNat {w x n j : Nat} (hj : j < n) :
    ((digitsBE w x n).getD j 0).toNat = x / 2 ^ (w * (n - 1 - j)) % 2 ^ w := by
  rw [digitsBE, List.getD_eq_getElem?_getD, List.getElem?_map, List.getElem?_range hj, Option.map_some, Option.getD_some,
    BitVec.toNat_ofNat]

/-- A field of a value is the value shifted down, and the shift is a division by a power of two. -/
theorem extractLsb'_eq_ofNat_div {n : Nat} (v : BitVec n) (k len : Nat) :
    v.extractLsb' k len = BitVec.ofNat len (v.toNat / 2 ^ k) := by
  rw [← Nat.shiftRight_eq_div_pow]
  rfl

/-- `BE64bytes` (R9) are the eight base-256 digits of the value. -/
theorem be64Bytes_eq_digitsBE (v : DWord) : be64Bytes v = digitsBE 8 v.toNat 8 := by
  simp only [be64Bytes, extractLsb'_eq_ofNat_div]
  rfl

theorem be64Bytes_getD_toNat (v : DWord) {j : Nat} (hj : j < 8) :
    ((be64Bytes v).getD j 0).toNat = v.toNat / 2 ^ (8 * (7 - j)) % 256 := by
  rw [be64Bytes_eq_digitsBE]
  exact digitsBE_getD_toNat hj

/-! ### CTR.ENC -/

/-- The counter is unsigned, with CTR_HI as its upper half (R36, R140). -/
theorem counterOperand_toNat (a : Args) : (counterOperand a).toNat = a.ctrHi.toNat * 2 ^ 32 + a.ctrLo.toNat := by
  rw [counterOperand, BitVec.toNat_append, ← Nat.shiftLeft_add_eq_or_of_lt a.ctrLo.isLt, Nat.shiftLeft_eq]

theorem execCtrEnc_of_dest_inside {s : State} (h : s.args.dst.toNat + 8 ≤ 4096) :
    execCtrEnc s = .next (succeed (setOutLen 8 (storeBytes s.args.dst (be64Bytes (counterOperand s.args)) s))) :=
  checkRegion_of_inBounds h

theorem execCtrEnc_of_dest_outside {s : State} (h : 4096 < s.args.dst.toNat + 8) :
    execCtrEnc s = .next (raiseCause .bounds destRegion s) :=
  checkRegion_of_outside h

/-- Settles O23: the laws of `writeBytes` over the counter's eight bytes, whose values `be64Bytes_getD_toNat` gives. -/
theorem ctrEncWritesCounter : Obligations.CtrEncWritesCounter := by
  unfold Obligations.CtrEncWritesCounter
  refine ⟨by decide, fun s hdst => ?_, fun s => execCtrEnc_of_dest_outside⟩
  refine ⟨_, be64Bytes (counterOperand s.args), execCtrEnc_of_dest_inside hdst, rfl, ?_, fun j hj => ?_, fun a ha => ?_⟩
  · exact Memory.readBytes_writeBytes _ _ (be64Bytes _)
  · rw [be64Bytes_getD_toNat _ hj, counterOperand_toNat]
  · exact Memory.read_writeBytes_outside ha

end Sys2Proof.Machine
end

section
/-!
SUPPORT. SHA-1 (43_sha1.md): the round functions, the message schedule, the compression function, the padding and the
digest bytes as the rules state them, the outcomes of SHA1.INIT, SHA1.BLOCK and SHA1.DIGEST, and a chain of SHA1.BLOCK.
-/

namespace Sys2Proof.Machine

/-! ### Elements of a list by position

Core Lean states these for `[·]?` only, and the proofs import no more than the model does. -/

section Positions
variable {α : Type} {as : List α} {i : Nat} (d : α)

theorem getD_reverse_of_lt (h : i < as.length) : as.reverse.getD i d = as.getD (as.length - 1 - i) d := by
  rw [List.getD_eq_getElem?_getD, List.getElem?_reverse h, ← List.getD_eq_getElem?_getD]

theorem getD_append_of_lt (bs : List α) (h : i < as.length) : (as ++ bs).getD i d = as.getD i d := by
  rw [List.getD_eq_getElem?_getD, List.getElem?_append_left h, ← List.getD_eq_getElem?_getD]

theorem getD_append_add (as bs : List α) (i : Nat) : (as ++ bs).getD (as.length + i) d = bs.getD i d := by
  rw [List.getD_eq_getElem?_getD, List.getElem?_append_right (Nat.le_add_right _ _), Nat.add_sub_cancel_left,
    ← List.getD_eq_getElem?_getD]

end Positions

/-! ### The rounds (R150, R151, R154) -/

/-- Settles O30: the ranges of rounds are the branches of `sha1F` and `sha1K`. -/
theorem roundFunctionsAndConstants : Obligations.RoundFunctionsAndConstants := by
  unfold Obligations.RoundFunctionsAndConstants
  intro t b c d
  unfold sha1F sha1K
  refine ⟨fun h20 => ?_, fun h20 h40 => ?_, fun h40 h60 => ?_, fun h60 _ => ?_⟩
  · simp only [if_pos h20, and_self]
  · simp only [if_neg (Nat.not_lt.mpr h20), if_pos h40, and_self]
  · simp only [if_neg (show ¬t < 20 by omega), if_neg (Nat.not_lt.mpr h40), if_pos h60, and_self]
  · simp only [if_neg (show ¬t < 20 by omega), if_neg (show ¬t < 40 by omega), if_neg (Nat.not_lt.mpr h60), and_self]

theorem rotl_eq_rotateLeft {n : Nat} (x : Word) (h : n < 32) : rotl n x = x.rotateLeft n :=
  (BitVec.rotateLeft_eq_rotateLeftAux_of_lt h).symm

/-- The rounds from `t` on lead along every sequence of working values that follows the round step over `ws`. -/
theorem sha1Rounds_eq {v : Nat → Chain} {ws : List Word} {t : Nat}
    (hv : ∀ i, i < ws.length → v (t + i + 1) = sha1Round (t + i) (ws.getD i 0) (v (t + i))) :
    sha1Rounds t ws (v t) = v (t + ws.length) := by
  induction ws generalizing t with
  | nil => rfl
  | cons w ws ih =>
    have hfirst : v (t + 1) = sha1Round t w (v t) := hv 0 (Nat.zero_lt_succ _)
    have hrest : ∀ i, i < ws.length → v (t + 1 + i + 1) = sha1Round (t + 1 + i) (ws.getD i 0) (v (t + 1 + i)) := by
      intro i hi
      rw [Nat.add_right_comm t 1 i]
      exact hv (i + 1) (Nat.succ_lt_succ hi)
    rw [sha1Rounds, ← hfirst, ih hrest, List.length_cons, Nat.add_right_comm, Nat.add_assoc]

/-- Settles O32: the 80 rounds over the schedule's 80 words lead from `v 0` to `v 80` (`sha1Rounds_eq`). -/
theorem compressFollowsRounds : Obligations.CompressFollowsRounds := by
  unfold Obligations.CompressFollowsRounds
  rintro _ block v hlen rfl hv
  have hwords := sha1Schedule_length hlen
  have hrounds : sha1Rounds 0 (sha1Schedule block) (v 0) = v (0 + (sha1Schedule block).length) := by
    refine sha1Rounds_eq fun t ht => ?_
    rw [Nat.zero_add, hv t (hwords ▸ ht), sha1Round, rotl_eq_rotateLeft _ (by decide),
      rotl_eq_rotateLeft _ (by decide)]
  rw [sha1Compress, hrounds, hwords, chainAdd]

/-! ### The message schedule (R152) -/

/-- The words a schedule is extended from stand behind the `n` new ones. -/
theorem sha1Extend_getD_add (n j : Nat) (ws : List Word) : (sha1Extend n ws).getD (n + j) 0 = ws.getD j 0 := by
  induction n generalizing j ws with
  | zero => rw [sha1Extend, Nat.zero_add]
  | succ n ih => rw [sha1Extend, Nat.succ_add_eq_add_succ, ih, List.getD_cons_succ]

/-- Each new word is made from the words 3, 8, 14 and 16 places before it, so behind it in the newest-first list. -/
theorem sha1Extend_getD_new {n i : Nat} (ws : List Word) (hi : i < n) :
    (sha1Extend n ws).getD i 0 =
      rotl 1 ((sha1Extend n ws).getD (i + 3) 0 ^^^ (sha1Extend n ws).getD (i + 8) 0
        ^^^ (sha1Extend n ws).getD (i + 14) 0 ^^^ (sha1Extend n ws).getD (i + 16) 0) := by
  induction n generalizing ws with
  | zero => cases hi
  | succ n ih =>
    rw [sha1Extend]
    obtain hlt | rfl := Nat.lt_succ_iff_lt_or_eq.mp hi
    · exact ih _ hlt
    · simp only [sha1Extend_getD_add, List.getD_cons_succ]
      exact sha1Extend_getD_add i 0 _

theorem be32_toNat (b0 b1 b2 b3 : Byte) :
    (be32 b0 b1 b2 b3).toNat = b0.toNat * 2 ^ 24 + b1.toNat * 2 ^ 16 + b2.toNat * 2 ^ 8 + b3.toNat := by
  simp only [be32, append_byte_toNat]
  omega

/-- `BE32(B, 4t)` (R9). -/
theorem be32Words_getD : ∀ {bs : List Byte} {t : Nat}, t < bs.length / 4 →
    (be32Words bs).getD t 0 =
      be32 (bs.getD (4 * t) 0) (bs.getD (4 * t + 1) 0) (bs.getD (4 * t + 2) 0) (bs.getD (4 * t + 3) 0)
  | [], _, h | [_], _, h | [_, _], _, h | [_, _, _], _, h => by simp at h
  | _ :: _ :: _ :: _ :: _, 0, _ => rfl
  | _ :: _ :: _ :: _ :: rest, t + 1, h => by
    have ht : t < rest.length / 4 := by
      simp only [List.length_cons] at h
      omega
    exact be32Words_getD (bs := rest) ht

section Schedule
variable {block : List Byte} (hlen : block.length = 64)
include hlen

/-- The schedule is the extended list read from its oldest word on. -/
theorem sha1Schedule_getD {t : Nat} (ht : t < 80) :
    (sha1Schedule block).getD t 0 = (sha1Extend 64 (be32Words block).reverse).getD (79 - t) 0 := by
  have hwords : (sha1Extend 64 (be32Words block).reverse).length = 80 := by
    rw [← sha1Schedule_length hlen, sha1Schedule, List.length_reverse]
  rw [sha1Schedule, getD_reverse_of_lt _ (hwords.symm ▸ ht), hwords]

/-- The first 16 words are the words of the block. -/
theorem sha1Schedule_getD_block {t : Nat} (ht : t < 16) :
    (sha1Schedule block).getD t 0 = (be32Words block).getD t 0 := by
  have hwords : (be32Words block).length = 16 := by rw [be32Words_length, hlen]
  rw [sha1Schedule_getD hlen (by omega), show 79 - t = 64 + (15 - t) by omega, sha1Extend_getD_add,
    getD_reverse_of_lt _ (by omega), hwords]
  congr 1
  omega

theorem sha1Schedule_getD_new {t : Nat} (hlo : 16 ≤ t) (hhi : t < 80) :
    (sha1Schedule block).getD t 0 =
      rotl 1 ((sha1Schedule block).getD (t - 3) 0 ^^^ (sha1Schedule block).getD (t - 8) 0
        ^^^ (sha1Schedule block).getD (t - 14) 0 ^^^ (sha1Schedule block).getD (t - 16) 0) := by
  have hback : ∀ k, k ≤ 16 → (sha1Schedule block).getD (t - k) 0 =
      (sha1Extend 64 (be32Words block).reverse).getD (79 - t + k) 0 := by
    intro k hk
    rw [sha1Schedule_getD hlen (by omega)]
    congr 1
    omega
  rw [hback 3 (by decide), hback 8 (by decide), hback 14 (by decide), hback 16 (by decide), sha1Schedule_getD hlen hhi]
  exact sha1Extend_getD_new _ (by omega)

end Schedule

/-- Settles O31: the words of the block (`be32Words_getD`), then the recurrence (`sha1Schedule_getD_new`). -/
theorem scheduleRecurrence : Obligations.ScheduleRecurrence := by
  unfold Obligations.ScheduleRecurrence
  intro block hlen
  refine ⟨sha1Schedule_length hlen, fun t ht => ?_, fun t hlo hhi => ?_⟩
  · rw [sha1Schedule_getD_block hlen ht, be32Words_getD (by omega), be32_toNat]
  · rw [sha1Schedule_getD_new hlen hlo hhi, rotl_eq_rotateLeft _ (by decide)]

/-! ### The padding (R153) -/

theorem sha1PadZeros_cast (l : Nat) : (sha1PadZeros l : Int) = (55 - (l : Int)) % 64 :=
  Int.toNat_of_nonneg (Int.emod_nonneg _ (by decide))

theorem sha1Pad_length_mod (m : List Byte) : (sha1Pad m).length % 64 = 0 := by
  have hz := sha1PadZeros_cast m.length
  rw [sha1Pad_length]
  omega

section Padding
variable (m : List Byte)

theorem sha1Pad_getD_message {j : Nat} (hj : j < m.length) : (sha1Pad m).getD j 0 = m.getD j 0 := by
  rw [sha1Pad, List.append_assoc, List.append_assoc, getD_append_of_lt _ _ hj]

/-- What follows the message: the marker, the zeros and the bit length. -/
theorem sha1Pad_getD_padding (i : Nat) :
    (sha1Pad m).getD (m.length + i) 0 =
      (0x80 :: (zeroBytes (sha1PadZeros m.length) ++ be64Bytes (BitVec.ofNat 64 (8 * m.length)))).getD i 0 := by
  rw [sha1Pad, List.append_assoc, List.append_assoc, getD_append_add]
  rfl

theorem sha1Pad_getD_zero {i : Nat} (hi : i < sha1PadZeros m.length) :
    (sha1Pad m).getD (m.length + (i + 1)) 0 = 0x00 := by
  rw [sha1Pad_getD_padding, List.getD_cons_succ, getD_append_of_lt _ _ (by rwa [zeroBytes_length]), zeroBytes,
    List.getD_eq_getElem?_getD, List.getElem?_replicate_of_lt hi, Option.getD_some]

theorem sha1Pad_getD_bitLength (k : Nat) :
    (sha1Pad m).getD ((sha1Pad m).length - 8 + k) 0 = (be64Bytes (BitVec.ofNat 64 (8 * m.length))).getD k 0 := by
  have hpos : (sha1Pad m).length - 8 + k = m.length + ((zeroBytes (sha1PadZeros m.length)).length + k + 1) := by
    rw [sha1Pad_length, zeroBytes_length]
    omega
  rw [hpos, sha1Pad_getD_padding, List.getD_cons_succ, getD_append_add]

end Padding

/-- Settles O33: one lemma per part of the padded message. -/
theorem paddingShape : Obligations.PaddingShape := by
  unfold Obligations.PaddingShape
  intro m hbits
  refine ⟨?_, sha1Pad_length_mod m, fun j => sha1Pad_getD_message m, sha1Pad_getD_padding m 0, fun j hlo hhi => ?_,
    fun k hk => ?_⟩
  · rw [sha1Pad_length, ← sha1PadZeros_cast]
    omega
  · obtain ⟨i, rfl⟩ := Nat.exists_eq_add_of_lt hlo
    rw [sha1Pad_length] at hhi
    exact sha1Pad_getD_zero m (by omega)
  · rw [sha1Pad_getD_bitLength, be64Bytes_getD_toNat _ hk, BitVec.toNat_ofNat, Nat.mod_eq_of_lt hbits]

/-! ### The digest bytes (R158) -/

/-- `BE32bytes` (R9) are the four base-256 digits of the word. -/
theorem be32Bytes_eq_digitsBE (w : Word) : be32Bytes w = digitsBE 8 w.toNat 4 := by
  simp only [be32Bytes, extractLsb'_eq_ofNat_div]
  rfl

theorem be32Bytes_getD_toNat (w : Word) {j : Nat} (hj : j < 4) :
    ((be32Bytes w).getD j 0).toNat = w.toNat / 2 ^ (8 * (3 - j)) % 256 := by
  rw [be32Bytes_eq_digitsBE]
  exact digitsBE_getD_toNat hj

/-- Byte 4k + j of a digest is byte j of its word k. -/
theorem digestBytes_getD (h : Chain) {k j : Nat} (hk : k < 5) (hj : j < 4) :
    (digestBytes h).getD (4 * k + j) 0 = (be32Bytes (h.words.getD k 0)).getD j 0 := by
  rw [← digestBytes_word h hk]
  simp only [List.getD_eq_getElem?_getD, List.getElem?_take_of_lt hj, List.getElem?_drop]

/-- Settles O34: byte j of word k (`digestBytes_getD`) by number (`be32Bytes_getD_toNat`). -/
theorem digestBytesBigEndian : Obligations.DigestBytesBigEndian := by
  unfold Obligations.DigestBytesBigEndian
  intro h k j hk hj
  refine ⟨digestBytes_length h, ?_⟩
  rw [digestBytes_getD h hk hj, be32Bytes_getD_toNat _ hj, Chain.words]

/-! ### SHA1.INIT and SHA1.BLOCK (R160, R161) -/

/-- Settles O19: SHA1.INIT has no operand, so it completes in every state with `setChain sha1Iv`. -/
theorem sha1InitLoadsIv : Obligations.Sha1InitLoadsIv := by
  unfold Obligations.Sha1InitLoadsIv
  exact ⟨by decide, fun s => rfl⟩

theorem exec_sha1Block_of_read {s : State} {block : List Byte} (hin : s.args.src.toNat + 64 ≤ 4096)
    (hread : s.buf.readBytes s.args.src.toNat 64 = .ok block) :
    exec .sha1Block s = .next (succeed (setChain (sha1Compress s.chain block) s)) :=
  (checkRegion_of_inBounds hin).trans (withBytes_of_read hread)

/-- A region with an unwritten byte cannot be read. -/
theorem Memory.exists_readBytes_error {m : Memory} {a n i : Nat} (hlo : a ≤ i) (hhi : i < a + n)
    (hi : m.read i = none) : ∃ j, m.readBytes a n = .error j := by
  cases hread : m.readBytes a n with
  | error j => exact ⟨j, rfl⟩
  | ok bs =>
    obtain ⟨hlen, hbytes⟩ := Memory.readBytes_ok_iff.mp hread
    have hb := hbytes (i - a) (by omega)
    rw [Nat.add_sub_cancel' hlo, hi] at hb
    cases hb

/-- Settles O20: one outcome per clause, by the first check of R106 that decides it. -/
theorem sha1BlockCompresses : Obligations.Sha1BlockCompresses := by
  unfold Obligations.Sha1BlockCompresses
  refine ⟨by decide, fun s block => exec_sha1Block_of_read, fun s hout => checkRegion_of_outside hout, ?_⟩
  intro s i hin hlo hhi hi
  obtain ⟨j, hread⟩ := Memory.exists_readBytes_error hlo hhi hi
  exact ⟨j, readRegion_unwritten hin hread⟩

/-! ### SHA1.DIGEST (R162) -/

/-- What a completion that ends with `storeDigest` leaves: the digest at DST and in H0 to H4, its length in OUT_LEN, and
the rest of the engine and of BUF as before. -/
theorem succeed_storeDigest_spec (h : Chain) (s : State) :
    succeed (storeDigest h s) =
      { s with buf := (succeed (storeDigest h s)).buf, chain := h, outLen := 20, status := doneStatus s.status } ∧
    (succeed (storeDigest h s)).buf.readBytes s.args.dst.toNat 20 = .ok (digestBytes h) ∧
    ∀ a, (a < s.args.dst.toNat ∨ s.args.dst.toNat + 20 ≤ a) →
      (succeed (storeDigest h s)).buf.read a = s.buf.read a := by
  rw [succeed_buf, storeDigest_buf]
  refine ⟨?_, ?_, fun a ha => Memory.read_writeBytes_outside (by rwa [digestBytes_length])⟩
  · unfold storeDigest
    generalize digestBytes h = bs
    rfl
  · rw [← digestBytes_length h]
    exact Memory.readBytes_writeBytes _ _ _

theorem exec_sha1Digest_of_read {s : State} {message : List Byte} (hsrc : s.args.src.toNat + s.args.len.toNat ≤ 4096)
    (hdst : s.args.dst.toNat + 20 ≤ 4096)
    (hread : s.buf.readBytes s.args.src.toNat s.args.len.toNat = .ok message) :
    exec .sha1Digest s = .next (succeed (storeDigest (sha1 message) s)) :=
  (checkRegion_of_inBounds hsrc).trans ((withBytes_of_read hread).trans (checkRegion_of_inBounds hdst))

/-- Settles O21: the checks pass, and `succeed_storeDigest_spec` says what the completion leaves. -/
theorem sha1DigestCompletes : Obligations.Sha1DigestCompletes := by
  unfold Obligations.Sha1DigestCompletes
  intro s message hsrc hdst hread
  exact ⟨_, exec_sha1Digest_of_read hsrc hdst hread, succeed_storeDigest_spec (sha1 message) s⟩

/-! ### A chain of SHA1.BLOCK (R163) -/

/-- Any chaining value and any block can stand in a state from which SHA1.BLOCK succeeds. -/
theorem exists_readable_block (h : Chain) {block : List Byte} (hlen : block.length = 64) :
    ∃ u : State, u.chain = h ∧ u.args.src.toNat + 64 ≤ 4096 ∧ u.buf.readBytes u.args.src.toNat 64 = .ok block :=
  ⟨storeBytes 0 block (setChain h State.reset), rfl, by rw [storeBytes_args, setChain_args]; decide,
    hlen ▸ Memory.readBytes_writeBytes [] 0 block⟩

/-- A chain of successful SHA1.BLOCK commands exists for all blocks of 64 bytes, and what it ends with is the chaining
value compressed with one block after the other. -/
theorem streams_iff {blocks : List (List Byte)} {h h' : Chain} (hlen : ∀ b ∈ blocks, b.length = 64) :
    Streams h blocks h' ↔ blocks.foldl sha1Compress h = h' := by
  induction blocks generalizing h with
  | nil => exact Iff.rfl
  | cons b blocks ih =>
    obtain ⟨hb, hblocks⟩ := List.forall_mem_cons.mp hlen
    rw [List.foldl_cons, ← ih hblocks]
    constructor
    · rintro ⟨u, u', rfl, hin, hread, hexec, hrest⟩
      rw [exec_sha1Block_of_read hin hread] at hexec
      cases hexec
      exact hrest
    · intro hrest
      obtain ⟨u, rfl, hin, hread⟩ := exists_readable_block h hb
      exact ⟨u, _, rfl, hin, hread, exec_sha1Block_of_read hin hread, hrest⟩

/-- `sha1Blocks` over a byte sequence is the fold over its 64-byte blocks (R157). -/
theorem sha1Blocks_flatten {blocks : List (List Byte)} (h : Chain) (hlen : ∀ b ∈ blocks, b.length = 64) :
    sha1Blocks (blocks.flatten.length / 64) blocks.flatten h = blocks.foldl sha1Compress h := by
  induction blocks generalizing h with
  | nil => rfl
  | cons b blocks ih =>
    obtain ⟨hb, hblocks⟩ := List.forall_mem_cons.mp hlen
    have hcount : (b ++ blocks.flatten).length / 64 = blocks.flatten.length / 64 + 1 := by
      rw [List.length_append, hb]
      omega
    rw [List.flatten_cons, hcount, sha1Blocks, List.take_left' hb, List.drop_left' hb, ih _ hblocks, List.foldl_cons]

/-- Settles O35: a chain over the blocks folds the compression over them (`streams_iff`), and so does SHA1
(`sha1Blocks_flatten`), both from the initial hash value. -/
theorem streamedBlocksGiveDigest : Obligations.StreamedBlocksGiveDigest := by
  unfold Obligations.StreamedBlocksGiveDigest
  intro m blocks s t h hlen hpad hinit
  have hiv : t.chain = sha1Iv := by
    cases hinit
    rfl
  rw [streams_iff hlen, hiv, ← sha1Blocks_flatten sha1Iv hlen, hpad, ← sha1, eq_comm]

end Sys2Proof.Machine
end

section
/-!
SUPPORT. HMAC-SHA1 (44_hmac.md): the padded key, the pads and the block counts of the two hashes as the rules state them,
and the completion of HMAC.SHA1.
-/

namespace Sys2Proof.Machine

/-! ### The padded key (R180) -/

/-- Padding with zeros: the bytes stand first, and zeros from there on. -/
theorem getD_append_zeroBytes (bs : List Byte) (n j : Nat) :
    (bs ++ zeroBytes n).getD j 0 = if j < bs.length then bs.getD j 0 else 0x00 := by
  split
  next hj => exact getD_append_of_lt 0 _ hj
  next hj =>
    obtain ⟨i, rfl⟩ := Nat.exists_eq_add_of_le (Nat.not_lt.mp hj)
    rw [getD_append_add, zeroBytes, List.getD_eq_getElem?_getD, List.getElem?_replicate]
    split <;> rfl

theorem hmacKeyBlock_of_short {key : List Byte} (h : key.length ≤ 64) :
    hmacKeyBlock key = key ++ zeroBytes (64 - key.length) :=
  if_neg (Nat.not_lt.mpr h)

theorem hmacKeyBlock_of_long {key : List Byte} (h : 64 < key.length) :
    hmacKeyBlock key = digestBytes (sha1 key) ++ zeroBytes 44 :=
  if_pos h

/-- Settles O36: both forms of K0 are a byte sequence padded with zeros (`getD_append_zeroBytes`). -/
theorem hmacKeyBlockShape : Obligations.HmacKeyBlockShape := by
  unfold Obligations.HmacKeyBlockShape
  refine fun key => ⟨hmacKeyBlock_length key, fun hshort j _ => ?_, fun hlong j _ => ?_⟩
  · rw [hmacKeyBlock_of_short hshort, getD_append_zeroBytes]
  · rw [hmacKeyBlock_of_long hlong, getD_append_zeroBytes, digestBytes_length]

/-- Zeros appended to a key that stays within 64 bytes are zeros that K0 would have had in their place. -/
theorem hmacKeyBlock_append_zeroBytes {key : List Byte} {n : Nat} (h : key.length + n ≤ 64) :
    hmacKeyBlock (key ++ zeroBytes n) = hmacKeyBlock key := by
  have hlen : (key ++ zeroBytes n).length = key.length + n := by rw [List.length_append, zeroBytes_length]
  have hzeros : zeroBytes n ++ zeroBytes (64 - (key.length + n)) = zeroBytes (64 - key.length) := by
    rw [zeroBytes, zeroBytes, List.replicate_append_replicate, zeroBytes]
    congr 1
    omega
  rw [hmacKeyBlock_of_short (hlen ▸ h), hlen, List.append_assoc, hzeros, hmacKeyBlock_of_short (by omega)]

/-- Settles O38: the key enters the MAC through K0 alone, which is the same for both keys
(`hmacKeyBlock_append_zeroBytes`). -/
theorem hmacIgnoresTrailingZeros : Obligations.HmacIgnoresTrailingZeros := by
  unfold Obligations.HmacIgnoresTrailingZeros
  intro key message n h
  rw [← zeroBytes, hmacSha1, hmacInner, hmacKeyBlock_append_zeroBytes h, ← hmacInner, ← hmacSha1]

/-! ### The construction (R181, R182) -/

/-- A sequence that has the length of a block and its bytes, each XORed with the pad byte, is `xorPad` of the block. -/
theorem eq_xorPad_of_getD {pad : Byte} {block bs : List Byte} (hlen : bs.length = block.length)
    (hbytes : ∀ j, j < block.length → bs.getD j 0 = block.getD j 0 ^^^ pad) : bs = xorPad pad block := by
  refine List.ext_getElem (by rw [hlen, xorPad_length]) fun j hj _ => ?_
  have hblock : j < block.length := hlen ▸ hj
  have hbyte := hbytes j hblock
  rw [← List.getElem_eq_getD, ← List.getElem_eq_getD] at hbyte
  simpa only [xorPad, List.getElem_map] using hbyte

/-- A message of a whole block and more pads to at least two blocks: the padding adds nine bytes or more. -/
theorem sha1Pad_length_of_block_le {m : List Byte} (h : 64 ≤ m.length) : 2 * 64 ≤ (sha1Pad m).length := by
  have hmod := sha1Pad_length_mod m
  have hlen := sha1Pad_length m
  omega

/-- The outer message of HMAC, a block and a digest, pads to two blocks. -/
theorem sha1Pad_length_of_length_84 {m : List Byte} (h : m.length = 84) : (sha1Pad m).length = 2 * 64 := by
  rw [sha1Pad_length, h]
  rfl

/-- Settles O37: the given pads are those of the model (`eq_xorPad_of_getD`), and the block counts follow from the
lengths of the two messages. -/
theorem hmacConstruction : Obligations.HmacConstruction := by
  unfold Obligations.HmacConstruction
  intro key message ipad opad hilen holen hipad hopad
  have hkey := hmacKeyBlock_length key
  have hinner : hmacInner key message = sha1 (ipad ++ message) := by
    rw [hmacInner, ← eq_xorPad_of_getD (hilen.trans hkey.symm) (hkey.symm ▸ hipad)]
  have houter : (opad ++ digestBytes (sha1 (ipad ++ message))).length = 84 := by
    rw [List.length_append, holen, digestBytes_length]
  refine ⟨?_, sha1Pad_length_of_block_le ?_, houter, sha1Pad_length_of_length_84 houter⟩
  · rw [hmacSha1, hinner, ← eq_xorPad_of_getD (holen.trans hkey.symm) (hkey.symm ▸ hopad)]
  · rw [List.length_append, hilen]
    exact Nat.le_add_right 64 _

/-! ### HMAC.SHA1 (R183) -/

theorem exec_hmacSha1_of_read {s : State} {key message : List Byte}
    (hsrc : s.args.src.toNat + s.args.len.toNat ≤ 4096) (hkey : s.args.key.toNat + s.args.klen.toNat ≤ 4096)
    (hdst : s.args.dst.toNat + 20 ≤ 4096)
    (hm : s.buf.readBytes s.args.src.toNat s.args.len.toNat = .ok message)
    (hk : s.buf.readBytes s.args.key.toNat s.args.klen.toNat = .ok key) :
    exec .hmacSha1 s = .next (succeed (storeDigest (hmacSha1 key message) s)) := by
  rw [exec, execHmacSha1, checkRegion_of_inBounds hsrc, checkRegion_of_inBounds hkey, withBytes_of_read hm,
    withBytes_of_read hk, checkRegion_of_inBounds hdst]

/-- Settles O22: the checks pass, and `succeed_storeDigest_spec` says what the completion leaves. -/
theorem hmacSha1Completes : Obligations.HmacSha1Completes := by
  unfold Obligations.HmacSha1Completes
  intro s key message hsrc hkey hdst hm hk
  exact ⟨_, exec_hmacSha1_of_read hsrc hkey hdst hm hk, succeed_storeDigest_spec (hmacSha1 key message) s⟩

end Sys2Proof.Machine
end

section
/-!
SUPPORT. The truncator (45_truncate.md): the offset and the TruncatedValue by number, and the outcomes of TRUNC.
-/

namespace Sys2Proof.Machine

/-! ### The parts of the computation (R191, R192) -/

/-- The concatenation that R9 calls `BE32` is the OR of the bytes shifted into place. -/
theorem be32_eq_shiftLeft_or (b0 b1 b2 b3 : Byte) :
    be32 b0 b1 b2 b3 =
      (b0.setWidth 32 <<< 24) ||| (b1.setWidth 32 <<< 16) ||| (b2.setWidth 32 <<< 8) ||| b3.setWidth 32 :=
  (be32 b0 b1 b2 b3).setWidth_eq.symm.trans BitVec.setWidth_append_append_append_eq_shiftLeft_setWidth_or

/-- The TruncatedValue is the big-endian word at byte `o` whose first byte has lost its top bit. -/
theorem truncValue_eq_be32 (mac : List Byte) (o : Nat) :
    truncValue mac o =
      be32 (mac.getD o 0 &&& 0x7F) (mac.getD (o + 1) 0) (mac.getD (o + 2) 0) (mac.getD (o + 3) 0) :=
  (be32_eq_shiftLeft_or _ _ _ _).symm

theorem and_0x7F_toNat (b : Byte) : (b &&& 0x7F).toNat = b.toNat % 128 :=
  Nat.and_two_pow_sub_one_eq_mod b.toNat 7

theorem truncValue_toNat (mac : List Byte) (o : Nat) :
    (truncValue mac o).toNat =
      (mac.getD o 0).toNat % 128 * 2 ^ 24 + (mac.getD (o + 1) 0).toNat * 2 ^ 16 + (mac.getD (o + 2) 0).toNat * 2 ^ 8
        + (mac.getD (o + 3) 0).toNat := by
  rw [truncValue_eq_be32, be32_toNat, and_0x7F_toNat]

/-- The offset is the low nibble of byte 19. -/
theorem truncOffset_toNat (mac : List Byte) : (truncOffset mac).toNat = (mac.getD 19 0).toNat % 16 := by
  have hnibble : (mac.getD 19 0 &&& 0x0F).toNat = (mac.getD 19 0).toNat % 16 :=
    Nat.and_two_pow_sub_one_eq_mod _ 4
  rw [truncOffset, BitVec.toNat_setWidth, hnibble, Nat.mod_mod]

/-! ### The outcomes of TRUNC (R106, R190) -/

section Outcomes
variable {d : BitVec 4} {s : State} (hd : 1 ≤ d.toNat ∧ d.toNat ≤ 9)
include hd

theorem exec_trunc_of_source_outside (hout : 4096 < s.args.src.toNat + 20) :
    exec (.trunc d) s = .next (raiseCause .bounds sourceRegion s) :=
  (checkDigits_of_legal hd).trans (checkRegion_of_outside hout)

theorem exec_trunc_of_read {mac : List Byte} (hin : s.args.src.toNat + 20 ≤ 4096)
    (hread : s.buf.readBytes s.args.src.toNat 20 = .ok mac) :
    exec (.trunc d) s = .next (succeed (setTrunc (truncate mac d.toNat) s)) :=
  (checkDigits_of_legal hd).trans ((checkRegion_of_inBounds hin).trans (withBytes_of_read hread))

end Outcomes

/-- Settles O25: the checks pass, and the three outputs are `truncOffset_toNat`, `truncValue_toNat` and
`truncCode_toNat`. -/
theorem truncCompletes : Obligations.TruncCompletes := by
  unfold Obligations.TruncCompletes
  intro d s mac hd1 hd9 hin hread
  exact ⟨_, exec_trunc_of_read ⟨hd1, hd9⟩ hin hread, rfl, truncOffset_toNat mac, truncValue_toNat mac _,
    truncCode_toNat _ hd9⟩

/-- Settles O28: a digit count outside 1..9 is rejected before the source region is looked at, and any other lets the
bounds check decide. -/
theorem truncFailuresInOrder : Obligations.TruncFailuresInOrder := by
  unfold Obligations.TruncFailuresInOrder
  constructor
  · intro d s hd
    refine ⟨_, exec_trunc_of_illegal s hd, rfl, ?_⟩
    rw [raiseCause_errInfo, BitVec.toNat_setWidth_of_le (by decide)]
  · intro d s hd1 hd9 hout
    exact exec_trunc_of_source_outside ⟨hd1, hd9⟩ hout

end Sys2Proof.Machine
end

section
/-!
SUPPORT. The interrupt output (60_exceptions.md R207): the bits of STATUS and CTRL that `irq` is the level of.
-/

namespace Sys2Proof.Machine

/-! ### The bits of STATUS and CTRL (R28, R29) -/

theorem statusWord_done_err (st : Status) :
    (statusWord st).getLsbD 1 = st.done ∧ (statusWord st).getLsbD 2 = st.err := by
  obtain ⟨busy, done, err, ovr⟩ := st
  revert busy done err ovr
  decide

theorem ctrlWord_ieDone_ieErr (c : Ctrl) :
    (ctrlWord c).getLsbD 0 = c.ieDone ∧ (ctrlWord c).getLsbD 1 = c.ieErr := by
  obtain ⟨ieDone, ieErr⟩ := c
  revert ieDone ieErr
  decide

/-! ### The level of `irq` (R207) -/

/-- Settles O58: the bits that the two reads return are the flags and enables of the definition of `irq`. -/
theorem irqIsTheLevel : Obligations.IrqIsTheLevel := by
  unfold Obligations.IrqIsTheLevel
  intro s
  obtain ⟨hdone, herr⟩ := statusWord_done_err s.status
  obtain ⟨hieDone, hieErr⟩ := ctrlWord_ieDone_ieErr s.ctrl
  rw [readReg, readReg, hdone, herr, hieDone, hieErr, State.irq]

end Sys2Proof.Machine
end

section
/-!
SUPPORT. The two resets (70_reset_and_hazards.md R230, R232): the soft reset behind a write to CTRL, the hard reset behind
`rst`, and the transactions performed while `rst` is asserted.
-/

namespace Sys2Proof.Machine

/-- Neither reset leaves `irq` raised: its level needs DONE or ERR, which both clear (R207). -/
theorem irq_of_status_reset {s : State} (h : s.status = State.reset.status) : s.irq = false := by
  rw [State.irq, h]
  rfl

theorem InHardReset.irq {s : State} (h : InHardReset s) : s.irq = false :=
  irq_of_status_reset (congrArg State.status h :)

/-! ### A write to CTRL (R28, R232) -/

theorem writeReg_ctrl_enables {w : Word} (s : State) (h : w.getLsbD 31 = false) :
    writeReg .CTRL w s = { s with ctrl := { ieDone := w.getLsbD 0, ieErr := w.getLsbD 1 } } := by
  rw [writeReg, writeCtrl, h]
  rfl

theorem writeReg_ctrl_softReset {w : Word} (s : State) (h : w.getLsbD 31 = true) :
    writeReg .CTRL w s = softReset s := by
  rw [writeReg, writeCtrl, h]
  rfl

theorem ctrlWord_reset : ctrlWord State.reset.ctrl = 0 := by decide

/-- The soft reset of an engine whose `rst` is released: all but BUF, the host and the model's own fields is as at reset. -/
theorem softReset_of_rst_low {s : State} (hr : s.rst = false) :
    softReset s = { State.reset with buf := s.buf, host := s.host, sched := s.sched } := by
  rw [softReset, hr]
  rfl

/-- Settles O53: data bit 31 chooses between the enables and the soft reset, and a pending command has no say in it. -/
theorem ctrlWriteAndSoftReset : Obligations.CtrlWriteAndSoftReset := by
  unfold Obligations.CtrlWriteAndSoftReset
  intro s w hr
  obtain ⟨ht, hok⟩ := transaction_regAccess_write .CTRL w hr
  refine ⟨_, ht, hok, fun h31 => ?_, fun h31 => ?_⟩
  · rw [writeReg_ctrl_enables (tick s) h31]
    rfl
  · rw [writeReg_ctrl_softReset (tick s) h31, softReset_of_rst_low (s := tick s) hr]
    exact ⟨rfl, irq_of_status_reset rfl, ctrlWord_reset⟩

/-! ### Changes of `rst` (R230) -/

theorem assertRst_inHardReset (s : State) : InHardReset (assertRst s) := rfl

theorem releaseRst_of_rst_high {s : State} (h : s.rst = true) : releaseRst s = { hardReset s with rst := false } := by
  rw [releaseRst, if_pos h]

theorem releaseRst_of_rst_low {s : State} (h : s.rst = false) : releaseRst s = s := by
  rw [releaseRst, h]
  rfl

theorem releaseRst_inHardReset {s : State} (h : s.rst = true) : InHardReset (releaseRst s) := by
  rw [releaseRst_of_rst_high h]
  rfl

/-- Settles O56: an assertion, a release of an asserted `rst`, and a release of one that is not asserted. -/
theorem rstHoldsHardReset : Obligations.RstHoldsHardReset := by
  unfold Obligations.RstHoldsHardReset
  intro s rest
  refine ⟨?_, fun hr => ?_, fun hr => ?_⟩
  · have hreset := assertRst_inHardReset (setAgenda rest s)
    exact ⟨_, rfl, rfl, hreset, hreset.irq, rfl⟩
  · have hrel := releaseRst_of_rst_high (s := setAgenda rest s) hr
    have hreset := releaseRst_inHardReset (s := setAgenda rest s) hr
    exact ⟨_, rfl, by rw [hrel], hreset, hreset.irq, by rw [hrel]; rfl⟩
  · exact congrArg Host.Outcome.next (releaseRst_of_rst_low (s := setAgenda rest s) hr)

/-! ### Transactions while `rst` is asserted (R230, R63) -/

theorem transaction_of_rst_high (r : Request) {s : State} (hr : s.rst = true) :
    transaction r s = .next (resetTransaction r (tick s)) := by
  rw [transaction, if_pos hr]

theorem resetTransaction_sameEngine (r : Request) (s : State) : SameEngine s (resetTransaction r s) := rfl

/-- The host's record after such a transaction; its response is made of the free values (assumption log 5). -/
theorem resetTransaction_host (r : Request) (s : State) :
    (resetTransaction r s).host =
      { agenda := s.host.agenda
        position := s.host.position + 1
        response := some
          { resp := if Config.undrivenError s.host.position then .error else .okay, rdata := undrivenRdata s }
        busErrors := { addr := r.addr, size := r.size, kind := r.kind } :: s.host.busErrors } := rfl

/-- Settles O57: such a transaction is `resetTransaction`, whatever its address, size and kind. -/
theorem transactionsInResetChangeNothing : Obligations.TransactionsInResetChangeNothing := by
  unfold Obligations.TransactionsInResetChangeNothing
  intro s r hr
  refine ⟨_, transaction_of_rst_high r hr, resetTransaction_sameEngine r (tick s), ?_, ?_, ?_⟩ <;>
    rw [resetTransaction_host, tick_host]

end Sys2Proof.Machine
end
